-- ==== Sys2Proof/Word.lean ====
section
/-! DEFINITION. The two word types of the hardware: a 16-bit register, cell, address or instruction (`00_scope.md` R8)
and an 8-bit console character (`44_trap_and_reserved.md` R110). -/

namespace Sys2Proof

/-- A register, memory cell, instruction or address (R5, R8). Its `+` wraps modulo 65536 (R9). -/
abbrev Word := BitVec 16

/-- A console character (R110). -/
abbrev Byte := BitVec 8

end Sys2Proof
end

