-- ==== Sys2Proof/Syntax.lean ====
section
/-! DEFINITION. The instructions: one constructor per row of `spec/opcode_table.json`, in the table's order, with the
fields `30_encoding.md` R53 to R57 name. Bits no field names (R58) are no part of an instruction. -/

namespace Sys2Proof

/-- The general-purpose registers (`10_state.md` R14). PC and COND cannot be named by a field (R17). -/
inductive Reg where
  | r0 | r1 | r2 | r3 | r4 | r5 | r6 | r7
deriving DecidableEq, Repr

/-- One constructor per row of the opcode table. -/
inductive Instr where
  /-- BR, `0000nzpppppppppp` (R106). -/
  | br (n z p : Bool) (off9 : BitVec 9)
  /-- ADD, register form, `0001dddsss0xxttt` (R83). -/
  | addReg (dr sr1 sr2 : Reg)
  /-- ADD, immediate form, `0001dddsss1iiiii` (R84). -/
  | addImm (dr sr1 : Reg) (imm5 : BitVec 5)
  /-- LD, `0010dddppppppppp` (R92). -/
  | ld (dr : Reg) (off9 : BitVec 9)
  /-- ST, `0011sssppppppppp` (R96). -/
  | st (sr : Reg) (off9 : BitVec 9)
  /-- JSR, `01001ppppppppppp` (R104). -/
  | jsr (off11 : BitVec 11)
  /-- JSRR, `01000xxbbbxxxxxx` (R105). -/
  | jsrr (baseR : Reg)
  /-- AND, register form, `0101dddsss0xxttt` (R85). -/
  | andReg (dr sr1 sr2 : Reg)
  /-- AND, immediate form, `0101dddsss1iiiii` (R86). -/
  | andImm (dr sr1 : Reg) (imm5 : BitVec 5)
  /-- LDR, `0110dddbbbffffff` (R94). -/
  | ldr (dr baseR : Reg) (off6 : BitVec 6)
  /-- STR, `0111sssbbbffffff` (R98). -/
  | str (sr baseR : Reg) (off6 : BitVec 6)
  /-- RTI, `1000xxxxxxxxxxxx` (R119). -/
  | rti
  /-- NOT, `1001dddsssxxxxxx` (R87). -/
  | not (dr sr : Reg)
  /-- LDI, `1010dddppppppppp` (R93). -/
  | ldi (dr : Reg) (off9 : BitVec 9)
  /-- STI, `1011sssppppppppp` (R97). -/
  | sti (sr : Reg) (off9 : BitVec 9)
  /-- JMP, `1100xxxbbbxxxxxx` (R103); RET is base R7. -/
  | jmp (baseR : Reg)
  /-- RES, `1101xxxxxxxxxxxx` (R120). -/
  | res
  /-- LEA, `1110dddppppppppp` (R95). -/
  | lea (dr : Reg) (off9 : BitVec 9)
  /-- TRAP x20, GETC, `1111xxxx00100000` (R111). -/
  | trapGetc
  /-- TRAP x21, OUT, `1111xxxx00100001` (R112). -/
  | trapOut
  /-- TRAP x22, PUTS, `1111xxxx00100010` (R113). -/
  | trapPuts
  /-- TRAP x23, IN, `1111xxxx00100011` (R114). -/
  | trapIn
  /-- TRAP x24, WRITELINE, `1111xxxx00100100` (R115). -/
  | trapWriteline
  /-- TRAP x25, HALT, `1111xxxx00100101` (R117). -/
  | trapHalt
  /-- TRAP, unlisted vector `0x00..0x1F`, `1111xxxx000vvvvv` (R118). -/
  | trapUnlisted00 (vect : BitVec 8)
  /-- TRAP, unlisted vector `0x26..0x27`, `1111xxxx0010011v` (R118). -/
  | trapUnlisted26 (vect : BitVec 8)
  /-- TRAP, unlisted vector `0x28..0x2F`, `1111xxxx00101vvv` (R118). -/
  | trapUnlisted28 (vect : BitVec 8)
  /-- TRAP, unlisted vector `0x30..0x3F`, `1111xxxx0011vvvv` (R118). -/
  | trapUnlisted30 (vect : BitVec 8)
  /-- TRAP, unlisted vector `0x40..0x7F`, `1111xxxx01vvvvvv` (R118). -/
  | trapUnlisted40 (vect : BitVec 8)
  /-- TRAP, unlisted vector `0x80..0xFF`, `1111xxxx1vvvvvvv` (R118). -/
  | trapUnlisted80 (vect : BitVec 8)
deriving DecidableEq, Repr

end Sys2Proof
end

