-- ==== Sys2Proof/WellFormed.lean ====
section
/-! DEFINITION. When an instruction term stands for some instruction word. Register names and immediates have the
width of their field by their type; what is left to check is that the vector of an unlisted TRAP lies in its row's
range (`30_encoding.md` R63, R67). DESIGN CHOICE (log entry 13): the term holds the whole field trapvect8. Safe. -/

namespace Sys2Proof

/-- Does the vector lie in `lo..hi`? -/
def vectorIn (lo hi : Nat) (v : BitVec 8) : Bool := decide (lo ≤ v.toNat) && decide (v.toNat ≤ hi)

/-- The check on an instruction term, row by row of the opcode table. -/
def Instr.wellFormed : Instr → Bool
  | .br _ _ _ _ => true
  | .addReg _ _ _ => true
  | .addImm _ _ _ => true
  | .ld _ _ => true
  | .st _ _ => true
  | .jsr _ => true
  | .jsrr _ => true
  | .andReg _ _ _ => true
  | .andImm _ _ _ => true
  | .ldr _ _ _ => true
  | .str _ _ _ => true
  | .rti => true
  | .not _ _ => true
  | .ldi _ _ => true
  | .sti _ _ => true
  | .jmp _ => true
  | .res => true
  | .lea _ _ => true
  | .trapGetc => true
  | .trapOut => true
  | .trapPuts => true
  | .trapIn => true
  | .trapWriteline => true
  | .trapHalt => true
  | .trapUnlisted00 v => vectorIn 0x00 0x1F v
  | .trapUnlisted26 v => vectorIn 0x26 0x27 v
  | .trapUnlisted28 v => vectorIn 0x28 0x2F v
  | .trapUnlisted30 v => vectorIn 0x30 0x3F v
  | .trapUnlisted40 v => vectorIn 0x40 0x7F v
  | .trapUnlisted80 v => vectorIn 0x80 0xFF v

end Sys2Proof
end

