-- ==== Sys2Proof/Decode.lean ====
section
/-! DEFINITION. The decoder (`30_encoding.md` R51 to R64), total on the 65536 words and reading nothing but the word
(R60, `40_execution_cycle.md` R74), and after it the encoder, the opcode table's rows, and the host's
`decodeTableWord`. -/

namespace Sys2Proof

/-- The register a 3-bit field names: field value `i` names `Ri` (R53). -/
def Reg.ofBits (b : BitVec 3) : Reg :=
  match b.toNat with
  | 0 => .r0
  | 1 => .r1
  | 2 => .r2
  | 3 => .r3
  | 4 => .r4
  | 5 => .r5
  | 6 => .r6
  | _ => .r7

/-- The field value that names a register (R53). -/
def Reg.toBits : Reg → BitVec 3
  | .r0 => 0
  | .r1 => 1
  | .r2 => 2
  | .r3 => 3
  | .r4 => 4
  | .r5 => 5
  | .r6 => 6
  | .r7 => 7

/-- The sixteen opcodes (R59). -/
inductive Opcode where
  | br | add | ld | st | jsr | and | ldr | str | rti | not | ldi | sti | jmp | res | lea | trap
deriving DecidableEq, Repr

/-- The opcode map (R59; fourteen of the numbers are the spec's decision D2, log entry 12). The default can never be
taken, a 4-bit value being below 16; it answers RES, as R125 allows. -/
def Opcode.ofBits (b : BitVec 4) : Opcode :=
  match b.toNat with
  | 0 => .br
  | 1 => .add
  | 2 => .ld
  | 3 => .st
  | 4 => .jsr
  | 5 => .and
  | 6 => .ldr
  | 7 => .str
  | 8 => .rti
  | 9 => .not
  | 10 => .ldi
  | 11 => .sti
  | 12 => .jmp
  | 13 => .res
  | 14 => .lea
  | 15 => .trap
  | _ => .res

/-- `instr[15:12]` (R52). -/
def fieldOp (w : Word) : BitVec 4 := w.extractLsb' 12 4

/-- `instr[11:9]`, DR or SR (R53). -/
def fieldDr (w : Word) : Reg := Reg.ofBits (w.extractLsb' 9 3)

/-- `instr[8:6]`, SR1, SR or BaseR (R53). -/
def fieldBase (w : Word) : Reg := Reg.ofBits (w.extractLsb' 6 3)

/-- `instr[2:0]`, SR2 (R53). -/
def fieldSr2 (w : Word) : Reg := Reg.ofBits (w.extractLsb' 0 3)

/-- `instr[4:0]`, imm5 (R55). -/
def fieldImm5 (w : Word) : BitVec 5 := w.extractLsb' 0 5

/-- `instr[5:0]`, offset6 (R55). -/
def fieldOff6 (w : Word) : BitVec 6 := w.extractLsb' 0 6

/-- `instr[8:0]`, PCoffset9 (R55). -/
def fieldOff9 (w : Word) : BitVec 9 := w.extractLsb' 0 9

/-- `instr[10:0]`, PCoffset11 (R55). -/
def fieldOff11 (w : Word) : BitVec 11 := w.extractLsb' 0 11

/-- `instr[7:0]`, trapvect8 (R55). -/
def fieldVect (w : Word) : BitVec 8 := w.extractLsb' 0 8

/-- The routine a trap vector selects (R63, R108): the six listed vectors, every other an unlisted one, by the
ranges of the table's six rows (R67). -/
def decodeTrap (v : BitVec 8) : Instr :=
  match v.toNat with
  | 0x20 => .trapGetc
  | 0x21 => .trapOut
  | 0x22 => .trapPuts
  | 0x23 => .trapIn
  | 0x24 => .trapWriteline
  | 0x25 => .trapHalt
  | n =>
    if n < 0x20 then .trapUnlisted00 v
    else if n < 0x28 then .trapUnlisted26 v
    else if n < 0x30 then .trapUnlisted28 v
    else if n < 0x40 then .trapUnlisted30 v
    else if n < 0x80 then .trapUnlisted40 v
    else .trapUnlisted80 v

/-- The decoder: every word is exactly one instruction (R60). The form bits are `instr[5]` for ADD and AND, and
`instr[11]`, set for the PC-relative JSR, clear for JSRR (R56). -/
def decode (w : Word) : Instr :=
  match Opcode.ofBits (fieldOp w) with
  | .br => .br (w.getLsbD 11) (w.getLsbD 10) (w.getLsbD 9) (fieldOff9 w)
  | .add =>
    if w.getLsbD 5 then .addImm (fieldDr w) (fieldBase w) (fieldImm5 w)
    else .addReg (fieldDr w) (fieldBase w) (fieldSr2 w)
  | .ld => .ld (fieldDr w) (fieldOff9 w)
  | .st => .st (fieldDr w) (fieldOff9 w)
  | .jsr => if w.getLsbD 11 then .jsr (fieldOff11 w) else .jsrr (fieldBase w)
  | .and =>
    if w.getLsbD 5 then .andImm (fieldDr w) (fieldBase w) (fieldImm5 w)
    else .andReg (fieldDr w) (fieldBase w) (fieldSr2 w)
  | .ldr => .ldr (fieldDr w) (fieldBase w) (fieldOff6 w)
  | .str => .str (fieldDr w) (fieldBase w) (fieldOff6 w)
  | .rti => .rti
  | .not => .not (fieldDr w) (fieldBase w)
  | .ldi => .ldi (fieldDr w) (fieldOff9 w)
  | .sti => .sti (fieldDr w) (fieldOff9 w)
  | .jmp => .jmp (fieldBase w)
  | .res => .res
  | .lea => .lea (fieldDr w) (fieldOff9 w)
  | .trap => decodeTrap (fieldVect w)

/-! The encoder, from the patterns of R54. Bits no field names are 0, but for the ones NOT has in bits 5:0: the
assembler's habit of R58. DESIGN CHOICE (log entry 14), safe: the decoder ignores them. -/

/-- A field put at its lowest bit. -/
def place {n : Nat} (field : BitVec n) (lo : Nat) : Word := field.setWidth 16 <<< lo

/-- Format OPR: `oooodddsss0xxttt`. -/
def encodeOpr (op : BitVec 4) (dr sr1 sr2 : Reg) : Word :=
  place op 12 ||| place dr.toBits 9 ||| place sr1.toBits 6 ||| place sr2.toBits 0

/-- Format OPI: `oooodddsss1iiiii`. -/
def encodeOpi (op : BitVec 4) (dr sr1 : Reg) (imm5 : BitVec 5) : Word :=
  place op 12 ||| place dr.toBits 9 ||| place sr1.toBits 6 ||| place 0b1#1 5 ||| place imm5 0

/-- Format PC9: `oooorrrppppppppp`. -/
def encodePc9 (op : BitVec 4) (r : Reg) (off9 : BitVec 9) : Word :=
  place op 12 ||| place r.toBits 9 ||| place off9 0

/-- Format BASE6: `oooorrrbbbffffff`. -/
def encodeBase6 (op : BitVec 4) (r baseR : Reg) (off6 : BitVec 6) : Word :=
  place op 12 ||| place r.toBits 9 ||| place baseR.toBits 6 ||| place off6 0

/-- Format TRAP: `1111xxxxvvvvvvvv`. -/
def encodeTrap (v : BitVec 8) : Word := place 0b1111#4 12 ||| place v 0

/-- The word of a well-formed instruction. -/
def encode : Instr → Word
  | .br n z p off9 =>
    place 0b0000#4 12 ||| place (BitVec.ofBool n) 11 ||| place (BitVec.ofBool z) 10 |||
      place (BitVec.ofBool p) 9 ||| place off9 0
  | .addReg dr sr1 sr2 => encodeOpr 0b0001#4 dr sr1 sr2
  | .addImm dr sr1 imm5 => encodeOpi 0b0001#4 dr sr1 imm5
  | .ld dr off9 => encodePc9 0b0010#4 dr off9
  | .st sr off9 => encodePc9 0b0011#4 sr off9
  | .jsr off11 => place 0b0100#4 12 ||| place 0b1#1 11 ||| place off11 0
  | .jsrr baseR => place 0b0100#4 12 ||| place baseR.toBits 6
  | .andReg dr sr1 sr2 => encodeOpr 0b0101#4 dr sr1 sr2
  | .andImm dr sr1 imm5 => encodeOpi 0b0101#4 dr sr1 imm5
  | .ldr dr baseR off6 => encodeBase6 0b0110#4 dr baseR off6
  | .str sr baseR off6 => encodeBase6 0b0111#4 sr baseR off6
  | .rti => place 0b1000#4 12
  | .not dr sr => place 0b1001#4 12 ||| place dr.toBits 9 ||| place sr.toBits 6 ||| place 0b111111#6 0
  | .ldi dr off9 => encodePc9 0b1010#4 dr off9
  | .sti sr off9 => encodePc9 0b1011#4 sr off9
  | .jmp baseR => place 0b1100#4 12 ||| place baseR.toBits 6
  | .res => place 0b1101#4 12
  | .lea dr off9 => encodePc9 0b1110#4 dr off9
  | .trapGetc => encodeTrap 0x20#8
  | .trapOut => encodeTrap 0x21#8
  | .trapPuts => encodeTrap 0x22#8
  | .trapIn => encodeTrap 0x23#8
  | .trapWriteline => encodeTrap 0x24#8
  | .trapHalt => encodeTrap 0x25#8
  | .trapUnlisted00 v => encodeTrap v
  | .trapUnlisted26 v => encodeTrap v
  | .trapUnlisted28 v => encodeTrap v
  | .trapUnlisted30 v => encodeTrap v
  | .trapUnlisted40 v => encodeTrap v
  | .trapUnlisted80 v => encodeTrap v

/-! The rows of `spec/opcode_table.json` (R67), as the table prints them. -/

/-- A row: a word `w` matches it when `w AND mask = bits` (R67). -/
structure TableRow where
  bits : Word
  mask : Word
deriving DecidableEq, Repr

/-- Does the word match the row? -/
def TableRow.matchesWord (r : TableRow) (w : Word) : Bool := (w &&& r.mask) == r.bits

/-- The row of the table an instruction belongs to. -/
def Instr.row : Instr → TableRow
  | .br _ _ _ _ => ⟨0x0000, 0xF000⟩
  | .addReg _ _ _ => ⟨0x1000, 0xF020⟩
  | .addImm _ _ _ => ⟨0x1020, 0xF020⟩
  | .ld _ _ => ⟨0x2000, 0xF000⟩
  | .st _ _ => ⟨0x3000, 0xF000⟩
  | .jsr _ => ⟨0x4800, 0xF800⟩
  | .jsrr _ => ⟨0x4000, 0xF800⟩
  | .andReg _ _ _ => ⟨0x5000, 0xF020⟩
  | .andImm _ _ _ => ⟨0x5020, 0xF020⟩
  | .ldr _ _ _ => ⟨0x6000, 0xF000⟩
  | .str _ _ _ => ⟨0x7000, 0xF000⟩
  | .rti => ⟨0x8000, 0xF000⟩
  | .not _ _ => ⟨0x9000, 0xF000⟩
  | .ldi _ _ => ⟨0xA000, 0xF000⟩
  | .sti _ _ => ⟨0xB000, 0xF000⟩
  | .jmp _ => ⟨0xC000, 0xF000⟩
  | .res => ⟨0xD000, 0xF000⟩
  | .lea _ _ => ⟨0xE000, 0xF000⟩
  | .trapGetc => ⟨0xF020, 0xF0FF⟩
  | .trapOut => ⟨0xF021, 0xF0FF⟩
  | .trapPuts => ⟨0xF022, 0xF0FF⟩
  | .trapIn => ⟨0xF023, 0xF0FF⟩
  | .trapWriteline => ⟨0xF024, 0xF0FF⟩
  | .trapHalt => ⟨0xF025, 0xF0FF⟩
  | .trapUnlisted00 _ => ⟨0xF000, 0xF0E0⟩
  | .trapUnlisted26 _ => ⟨0xF026, 0xF0FE⟩
  | .trapUnlisted28 _ => ⟨0xF028, 0xF0F8⟩
  | .trapUnlisted30 _ => ⟨0xF030, 0xF0F0⟩
  | .trapUnlisted40 _ => ⟨0xF040, 0xF0C0⟩
  | .trapUnlisted80 _ => ⟨0xF080, 0xF080⟩

/-- The 30 rows, in the table's order. -/
def opcodeTable : List TableRow :=
  [⟨0x0000, 0xF000⟩, ⟨0x1000, 0xF020⟩, ⟨0x1020, 0xF020⟩, ⟨0x2000, 0xF000⟩, ⟨0x3000, 0xF000⟩,
   ⟨0x4800, 0xF800⟩, ⟨0x4000, 0xF800⟩, ⟨0x5000, 0xF020⟩, ⟨0x5020, 0xF020⟩, ⟨0x6000, 0xF000⟩] ++
  [⟨0x7000, 0xF000⟩, ⟨0x8000, 0xF000⟩, ⟨0x9000, 0xF000⟩, ⟨0xA000, 0xF000⟩, ⟨0xB000, 0xF000⟩,
   ⟨0xC000, 0xF000⟩, ⟨0xD000, 0xF000⟩, ⟨0xE000, 0xF000⟩, ⟨0xF020, 0xF0FF⟩, ⟨0xF021, 0xF0FF⟩] ++
  [⟨0xF022, 0xF0FF⟩, ⟨0xF023, 0xF0FF⟩, ⟨0xF024, 0xF0FF⟩, ⟨0xF025, 0xF0FF⟩, ⟨0xF000, 0xF0E0⟩,
   ⟨0xF026, 0xF0FE⟩, ⟨0xF028, 0xF0F8⟩, ⟨0xF030, 0xF0F0⟩, ⟨0xF040, 0xF0C0⟩, ⟨0xF080, 0xF080⟩]

/-- The bits of an instruction's word that some field or the opcode names; every other bit is ignored (R58, with the
patterns of R54). -/
def Instr.usedMask : Instr → Word
  | .br _ _ _ _ => 0xFFFF
  | .addReg _ _ _ => 0xFFE7
  | .addImm _ _ _ => 0xFFFF
  | .ld _ _ => 0xFFFF
  | .st _ _ => 0xFFFF
  | .jsr _ => 0xFFFF
  | .jsrr _ => 0xF9C0
  | .andReg _ _ _ => 0xFFE7
  | .andImm _ _ _ => 0xFFFF
  | .ldr _ _ _ => 0xFFFF
  | .str _ _ _ => 0xFFFF
  | .rti => 0xF000
  | .not _ _ => 0xFFC0
  | .ldi _ _ => 0xFFFF
  | .sti _ _ => 0xFFFF
  | .jmp _ => 0xF1C0
  | .res => 0xF000
  | .lea _ _ => 0xFFFF
  | .trapGetc => 0xF0FF
  | .trapOut => 0xF0FF
  | .trapPuts => 0xF0FF
  | .trapIn => 0xF0FF
  | .trapWriteline => 0xF0FF
  | .trapHalt => 0xF0FF
  | .trapUnlisted00 _ => 0xF0FF
  | .trapUnlisted26 _ => 0xF0FF
  | .trapUnlisted28 _ => 0xF0FF
  | .trapUnlisted30 _ => 0xF0FF
  | .trapUnlisted40 _ => 0xF0FF
  | .trapUnlisted80 _ => 0xF0FF

/-- The instruction the decoder reads from a word given as the opcode table numbers its bits: one 16-bit cell, bit 0
its least significant bit, bits above `nbits` zero. There is no longer instruction (R51, R64). -/
def decodeTableWord (nbits w : Nat) : Option Instr :=
  if nbits ≤ 16 then some (decode (BitVec.ofNat 16 (w % 2 ^ nbits))) else none

end Sys2Proof
end

