-- ==== Sys2Proof/Machine/State.lean ====
section
/-! DEFINITION. The state of the machine as plain data: everything `10_state.md` and `20_memory.md` give it, the
hold of `40_execution_cycle.md` R79, the `reset` input line of `00_scope.md` R6 and the console streams of `44_trap_and_reserved.md` R110; its reset value (R29);
the outcomes of a step that are not a next state. -/

namespace Sys2Proof.Machine

/-- The eight general-purpose registers (R12, R14): one flat file, none hardwired. -/
structure Gpr where
  r0 : Word
  r1 : Word
  r2 : Word
  r3 : Word
  r4 : Word
  r5 : Word
  r6 : Word
  r7 : Word
deriving DecidableEq, Repr

/-- The states of the control state machine (R24, R71). -/
inductive RunState where
  | running
  | halted
deriving DecidableEq, Repr

/-- Why `run` became HALTED (R25, R123). -/
inductive StopCause where
  | none
  | haltTrap
  | faultRti
  | faultRes
deriving DecidableEq, Repr

/-- Where in the middle of a TRAP routine the core holds, fetch and PC increment already done (R79, R82; R113 and R116
for a routine that never ends). DESIGN CHOICE (log entries 5 and 6): the hold is a state that further steps resume. -/
inductive Hold where
  /-- Not holding: the next step fetches. -/
  | idle
  /-- TRAP `0x20` waits for a character. -/
  | getc
  /-- TRAP `0x23` waits for a character. -/
  | inEcho
  /-- TRAP `0x22` on a string that never ends; the cell at `next` is read next. -/
  | puts (next : Word)
  /-- TRAP `0x24` on a sequence that never ends; `sent` characters are sent. -/
  | writeLine (sent : Nat)
deriving DecidableEq, Repr

/-- Console notices (R110); the text is not in the spec (log entry 18). -/
inductive Notice where
  | halt
deriving DecidableEq, Repr

/-- Memory as (address, cell) pairs, addresses strictly rising, no pair equal to what an unlisted address reads as.
DESIGN CHOICE (log entry 1): a cell is the spec's 16-bit cell, "there are no bytes" (R5, R31). -/
abbrev Memory := List (Nat × Word)

/-- The slots of the register file (R12). -/
inductive Slot where
  | gpr (r : Reg)
  | pc
  | cond
deriving DecidableEq, Repr

/-- The state of the machine. -/
structure State where
  /-- R0 to R7 (R14). -/
  gpr : Gpr
  /-- The program counter (R18). -/
  pc : Word
  /-- The condition flags slot (R20). -/
  cond : Word
  /-- RUNNING or HALTED (R24). -/
  run : RunState
  /-- The stop cause (R25). -/
  stopCause : StopCause
  /-- The hold inside a TRAP (R79). -/
  hold : Hold
  /-- Is the input `reset` asserted (R6)? The host drives the line; no step does. -/
  resetLine : Bool
  /-- The memory array (R31). -/
  mem : Memory
  /-- The unread characters of CONSOLE_IN that the environment has supplied (R110). -/
  consoleIn : List Byte
  /-- CONSOLE_OUT, first character first (R110). -/
  consoleOut : List Byte
  /-- The notices given, first one first (R110). -/
  notices : List Notice
deriving DecidableEq, Repr

/-- The state when `reset` is released, the line low again, with memory holding MEM0 (R29, R46). The console streams are the
environment's; they start empty here (log entry 7). -/
def State.resetWith (mem0 : Memory) : State where
  gpr := ⟨0x0000, 0x0000, 0x0000, 0x0000, 0x0000, 0x0000, 0x0000, 0x0000⟩
  pc := 0x3000
  cond := 0x0002
  run := .running
  stopCause := .none
  hold := .idle
  resetLine := false
  mem := mem0
  consoleIn := []
  consoleOut := []
  notices := []

/-- The machine right after reset, with nothing loaded: memory lists nothing (log entry 2). -/
def State.reset : State := State.resetWith []

/-- A step that stops the model with a fault: there is none. The only faults of the hardware are RTI and RES, whose
entry the spec describes as a state change to HALTED (R126), so they are next states; no address faults (R32), a
console wait and an endless routine are states (log entry 20). Safe. -/
inductive Fault where
deriving DecidableEq, Repr

/-- A step the model gives no meaning. -/
inductive Refusal where
  /-- Raised by an arm of `exec` whose instruction has no meaning yet; no arm does. Safe. -/
  | notModelled (mnemonic : String)
deriving DecidableEq, Repr

end Sys2Proof.Machine
end

