-- ==== Sys2Proof/Machine/Ops.lean ====
section
/-! DEFINITION. The named operations on the state: registers and slots, memory, the fetch, the fault, halting and
reset, the console port. -/

namespace Sys2Proof.Machine

/-! ## Registers (`10_state.md` R12 to R19) -/

/-- `x[i]` on the register file (R16). -/
def Gpr.get (g : Gpr) : Reg → Word
  | .r0 => g.r0
  | .r1 => g.r1
  | .r2 => g.r2
  | .r3 => g.r3
  | .r4 => g.r4
  | .r5 => g.r5
  | .r6 => g.r6
  | .r7 => g.r7

/-- `x[i] <- v` on the register file (R16): the value is stored whole (R13). -/
def Gpr.set (g : Gpr) (r : Reg) (v : Word) : Gpr :=
  match r with
  | .r0 => { g with r0 := v }
  | .r1 => { g with r1 := v }
  | .r2 => { g with r2 := v }
  | .r3 => { g with r3 := v }
  | .r4 => { g with r4 := v }
  | .r5 => { g with r5 := v }
  | .r6 => { g with r6 := v }
  | .r7 => { g with r7 := v }

/-- `x[i]` (R16). -/
def State.readReg (s : State) (r : Reg) : Word := s.gpr.get r

/-- `x[i] <- v` (R16). -/
def State.writeReg (s : State) (r : Reg) (v : Word) : State := { s with gpr := s.gpr.set r v }

/-- `pc <- target` (R18). -/
def State.setPc (s : State) (target : Word) : State := { s with pc := target }

/-- The write of the COND slot (R20). -/
def State.setCond (s : State) (c : Word) : State := { s with cond := c }

/-- The number of a slot (R12): the source's order, R0 first. DEDUCED for 8 and 9 (log entry 16). -/
def Slot.index : Slot → Nat
  | .gpr .r0 => 0
  | .gpr .r1 => 1
  | .gpr .r2 => 2
  | .gpr .r3 => 3
  | .gpr .r4 => 4
  | .gpr .r5 => 5
  | .gpr .r6 => 6
  | .gpr .r7 => 7
  | .pc => 8
  | .cond => 9

/-- `get(index)` (R13). -/
def State.readSlot (s : State) : Slot → Word
  | .gpr r => s.readReg r
  | .pc => s.pc
  | .cond => s.cond

/-- `set(index, value)` (R13). -/
def State.writeSlot (s : State) (k : Slot) (v : Word) : State :=
  match k with
  | .gpr r => s.writeReg r v
  | .pc => s.setPc v
  | .cond => s.setCond v

/-! ## Memory (`20_memory.md` R31 to R34) -/

/-- What an address no entry lists reads as. DESIGN CHOICE (log entry 2): `0x0000`, the conventional instance of MEM0
(R46, D12). Unsafe for claims about a run from `State.reset`; a state with another MEM0 lists its cells. -/
def Memory.unlisted : Word := 0x0000#16

/-- The cell at an address. -/
def Memory.lookup : Memory → Nat → Word
  | [], _ => Memory.unlisted
  | (k, v) :: m, a => if k = a then v else Memory.lookup m a

/-- Take an address out of the list. -/
def Memory.erase : Memory → Nat → Memory
  | [], _ => []
  | (k, v) :: m, a => if k = a then Memory.erase m a else (k, v) :: Memory.erase m a

/-- List a cell at an address, in rising order. -/
def Memory.insert : Memory → Nat → Word → Memory
  | [], a, v => [(a, v)]
  | (k, w) :: m, a, v =>
    if a < k then (a, v) :: (k, w) :: m
    else if a = k then (a, v) :: m
    else (k, w) :: Memory.insert m a v

/-- Write a cell, keeping the canonical form. -/
def Memory.store (m : Memory) (a : Nat) (v : Word) : Memory :=
  if v = Memory.unlisted then m.erase a else m.insert a v

/-- Canonical from address `lo` on: rising addresses in the 16-bit space, no entry an unlisted cell would read as. -/
def Memory.wfFrom : Nat → Memory → Bool
  | _, [] => true
  | lo, (k, v) :: m => decide (lo ≤ k) && decide (k < 65536) && (v != Memory.unlisted) && Memory.wfFrom (k + 1) m

/-- The canonical form of a memory. -/
def Memory.wf (m : Memory) : Bool := Memory.wfFrom 0 m

/-- `MemRead(addr, 1)` (R33). -/
def State.readMem (s : State) (a : Word) : Word := s.mem.lookup a.toNat

/-- `MemWrite(addr, 1, v)` (R34). -/
def State.writeMem (s : State) (a v : Word) : State := { s with mem := s.mem.store a.toNat v }

/-! ## The fetch (`40_execution_cycle.md` R73) -/

/-- The word the fetch reads: `MemRead(pc_f, 1)`. -/
def State.fetchWord (s : State) : Word := s.readMem s.pc

/-- The increment of the fetch: `pc <- (pc_f + 1) mod 2^16`. -/
def State.advance (s : State) : State := s.setPc (s.pc + 1)

/-! ## The fault, halting, and reset (`60_exceptions.md` R126, `70_reset_and_hazards.md` R141) -/

/-- The code of a stop cause (R25, R123). -/
def StopCause.code : StopCause → Nat
  | .none => 0
  | .haltTrap => 1
  | .faultRti => 2
  | .faultRes => 3

/-- Enter HALTED with a cause (R71). -/
def State.stop (s : State) (cause : StopCause) : State := { s with run := .halted, stopCause := cause }

/-- `raise Fault(cause)` (R126): taking the hardware's only exception. Nothing is saved, control goes nowhere (R130).
There is no return from it (R131): RTI is itself a fault, and only `reset` leaves HALTED. -/
def State.raiseFault (s : State) (cause : StopCause) : State := s.stop cause

/-- The host asserts `reset`, from any state (R141): registers, PC, COND, run and stop cause take their reset values and
a wait ends; memory and the console streams stay as they are (R143). The reset values stand while the line is asserted:
DEDUCED from R138 and R141 (log entry 10). -/
def State.assertReset (s : State) : State :=
  { State.resetWith s.mem with
    resetLine := true, consoleIn := s.consoleIn, consoleOut := s.consoleOut, notices := s.notices }

/-- The host releases `reset` (R6, R141): the next step is the first fetch. -/
def State.releaseReset (s : State) : State := { s with resetLine := false }

/-- A pulse of `reset`, with nothing done while it is asserted. -/
def State.applyReset (s : State) : State := s.assertReset.releaseReset

/-! ## The console port (`44_trap_and_reserved.md` R110) -/

/-- `ConsoleOut(c)`. -/
def State.consolePut (s : State) (c : Byte) : State := { s with consoleOut := s.consoleOut ++ [c] }

/-- `ConsoleOut` of each character in order. -/
def State.consolePutAll (s : State) (cs : List Byte) : State := { s with consoleOut := s.consoleOut ++ cs }

/-- The input stream after a character has been taken from it. -/
def State.setConsoleIn (s : State) (rest : List Byte) : State := { s with consoleIn := rest }

/-- `ConsoleNotice(k)`. -/
def State.consoleNotice (s : State) (k : Notice) : State := { s with notices := s.notices ++ [k] }

/-- Hold in the middle of a TRAP, or leave the hold (R79). -/
def State.setHold (s : State) (h : Hold) : State := { s with hold := h }

end Sys2Proof.Machine
end

