-- ==== Sys2Proof/Machine/Flags.lean ====
section
/-! DEFINITION. The condition flags (`10_state.md` R20 to R23): their values, `setcc`, and the test of BR. -/

namespace Sys2Proof.Machine

/-- POS (R20, decision D3). -/
def condPos : Word := 0x0001#16

/-- ZRO (R20, decision D3). -/
def condZro : Word := 0x0002#16

/-- NEG (R20, decision D3). -/
def condNeg : Word := 0x0004#16

/-- The flag of a value (R22). -/
def condOf (v : Word) : Word := if v.msb then condNeg else if v = 0 then condZro else condPos

/-- Exactly one of POS, ZRO, NEG (R21). -/
def condLegal (c : Word) : Bool := c == condPos || c == condZro || c == condNeg

/-- `setcc(x[r])`: reads the value just written (R22). -/
def State.setcc (s : State) (r : Reg) : State := s.setCond (condOf (s.readReg r))

/-- `x[DR] <- v; setcc(x[DR])`: how ADD, AND, NOT, LD, LDI, LDR, LEA, GETC and IN end (R23, R76). -/
def State.define (s : State) (dr : Reg) (v : Word) : State := (s.writeReg dr v).setcc dr

/-- Is the branch taken (R106)? `n` asks for NEG, `z` for ZRO, `p` for POS (R57). -/
def branchTaken (n z p : Bool) (cond : Word) : Bool :=
  (n && cond == condNeg) || (z && cond == condZro) || (p && cond == condPos)

end Sys2Proof.Machine
end

