-- ==== Sys2Proof/Machine/Operands.lean ====
section
/-! DEFINITION. Operand forms: extension of fields (`00_scope.md` R10, R11) and the effective addresses of the three
addressing modes (`42_load_store.md` R99). -/

namespace Sys2Proof.Machine

/-- `sext_N(f)` (R10), in the source's words: if the top bit of the field is set, OR it with all higher bits set, else
return it unchanged. -/
def sext (n : Nat) (f : BitVec n) : Word :=
  if f.msb then f.setWidth 16 ||| (0xFFFF#16 <<< n) else f.setWidth 16

/-- `zext_8(c)` (R11). -/
def zext8 (c : Byte) : Word := c.setWidth 16

/-- `v[7:0]`, the character in the low 8 bits of a cell or register (R35). -/
def lowByte (v : Word) : Byte := v.extractLsb' 0 8

/-- The PC-relative address (R99): `s` is the state after the fetch, its `pc` already incremented (R73). -/
def pcRelative (s : State) (off9 : BitVec 9) : Word := s.pc + sext 9 off9

/-- The target of JSR (R104), relative to the incremented `pc`. -/
def pcRelative11 (s : State) (off11 : BitVec 11) : Word := s.pc + sext 11 off11

/-- The indirect address (R99): the content of the cell at the PC-relative address. -/
def indirect (s : State) (off9 : BitVec 9) : Word := s.readMem (pcRelative s off9)

/-- The base plus offset address (R99). -/
def basePlus (s : State) (baseR : Reg) (off6 : BitVec 6) : Word := s.readReg baseR + sext 6 off6

end Sys2Proof.Machine
end

