-- ==== Sys2Proof/Machine/Control.lean ====
section
/-! DEFINITION. Control transfer: JMP with RET, JSR, JSRR, BR (`43_control.md`). -/

namespace Sys2Proof.Machine

/-- The write of the return address, common to JSR and JSRR: `x[7] <- pc`, COND untouched (R102, R104, R105). -/
def State.link (s : State) : State := s.writeReg .r7 s.pc

/-- JMP (R103); RET is base R7. -/
def execJmp (baseR : Reg) (s : State) : Host.Outcome State Fault Refusal :=
  .next (s.setPc (s.readReg baseR))

/-- JSR (R104). -/
def execJsr (off11 : BitVec 11) (s : State) : Host.Outcome State Fault Refusal :=
  .next (s.link.setPc (pcRelative11 s off11))

/-- JSRR (R105): the base is read after the link is written, so base R7 falls through. -/
def execJsrr (baseR : Reg) (s : State) : Host.Outcome State Fault Refusal :=
  .next (s.link.setPc (s.link.readReg baseR))

/-- BR (R106). -/
def execBr (n z p : Bool) (off9 : BitVec 9) (s : State) : Host.Outcome State Fault Refusal :=
  .next (if branchTaken n z p s.cond then s.setPc (pcRelative s off9) else s)

end Sys2Proof.Machine
end

