-- ==== Sys2Proof/Machine/LoadStore.lean ====
section
/-! DEFINITION. Loads, LEA and stores (`42_load_store.md`). -/

namespace Sys2Proof.Machine

/-- LD (R92). -/
def execLd (dr : Reg) (off9 : BitVec 9) (s : State) : Host.Outcome State Fault Refusal :=
  .next (s.define dr (s.readMem (pcRelative s off9)))

/-- LDI (R93): the cell at the address the pointer cell holds. -/
def execLdi (dr : Reg) (off9 : BitVec 9) (s : State) : Host.Outcome State Fault Refusal :=
  .next (s.define dr (s.readMem (indirect s off9)))

/-- LDR (R94). -/
def execLdr (dr baseR : Reg) (off6 : BitVec 6) (s : State) : Host.Outcome State Fault Refusal :=
  .next (s.define dr (s.readMem (basePlus s baseR off6)))

/-- LEA (R95): sets COND, makes no data access. -/
def execLea (dr : Reg) (off9 : BitVec 9) (s : State) : Host.Outcome State Fault Refusal :=
  .next (s.define dr (pcRelative s off9))

/-- ST (R96). -/
def execSt (sr : Reg) (off9 : BitVec 9) (s : State) : Host.Outcome State Fault Refusal :=
  .next (s.writeMem (pcRelative s off9) (s.readReg sr))

/-- STI (R97): the pointer is read before the write. -/
def execSti (sr : Reg) (off9 : BitVec 9) (s : State) : Host.Outcome State Fault Refusal :=
  .next (s.writeMem (indirect s off9) (s.readReg sr))

/-- STR (R98). -/
def execStr (sr baseR : Reg) (off6 : BitVec 6) (s : State) : Host.Outcome State Fault Refusal :=
  .next (s.writeMem (basePlus s baseR off6) (s.readReg sr))

end Sys2Proof.Machine
end

