-- ==== Sys2Proof/Machine/Operate.lean ====
section
/-! DEFINITION. The operate instructions ADD, AND, NOT (`41_operate.md`). Every meaning takes the state after the
fetch, its `pc` already incremented. -/

namespace Sys2Proof.Machine

/-- ADD, register form (R83). -/
def execAddReg (dr sr1 sr2 : Reg) (s : State) : Host.Outcome State Fault Refusal :=
  .next (s.define dr (s.readReg sr1 + s.readReg sr2))

/-- ADD, immediate form (R84). -/
def execAddImm (dr sr1 : Reg) (imm5 : BitVec 5) (s : State) : Host.Outcome State Fault Refusal :=
  .next (s.define dr (s.readReg sr1 + sext 5 imm5))

/-- AND, register form (R85). -/
def execAndReg (dr sr1 sr2 : Reg) (s : State) : Host.Outcome State Fault Refusal :=
  .next (s.define dr (s.readReg sr1 &&& s.readReg sr2))

/-- AND, immediate form (R86). -/
def execAndImm (dr sr1 : Reg) (imm5 : BitVec 5) (s : State) : Host.Outcome State Fault Refusal :=
  .next (s.define dr (s.readReg sr1 &&& sext 5 imm5))

/-- NOT (R87): the exclusive or with sixteen ones. -/
def execNot (dr sr : Reg) (s : State) : Host.Outcome State Fault Refusal :=
  .next (s.define dr (s.readReg sr ^^^ 0xFFFF#16))

end Sys2Proof.Machine
end

