-- ==== Sys2Proof/Config.lean ====
section
/-! DEFINITION. What the spec leaves to the implementation as a named parameter: WRITE_LINE
(`44_trap_and_reserved.md` R116, decision D10). MEM0 and CONSOLE_IN, the other two parameters of R5, are fields
of State. -/

namespace Sys2Proof

/-- A sequence of console characters, "finite or infinite" (R116). -/
inductive CharSeq where
  /-- The sequence ends after these characters. -/
  | finite (cs : List Byte)
  /-- The sequence never ends; character `k` is `c k`. -/
  | endless (c : Nat → Byte)
deriving Inhabited

/-- The characters of a sequence that ends; none for a sequence that does not. -/
def CharSeq.finitePart : CharSeq → List Byte
  | .finite cs => cs
  | .endless _ => []

/-- Does the sequence never end? -/
def CharSeq.isEndless : CharSeq → Bool
  | .finite _ => false
  | .endless _ => true

/-- The parameter WRITE_LINE (R116): the characters trap routine `0x24` sends, a function of the memory contents and
the start address and of nothing else. DESIGN CHOICE (log entry 3): a constant without a body, so nothing proved
depends on the format the spec leaves open. Safe. -/
opaque Config.writeLine : (Word → Word) → Word → CharSeq

/-- The addresses trap routine `0x24` reads before it sends character `k` (or, for `k` the length, before it ends):
R42 and R115 say only "reads only, as the parameter WRITE_LINE says". DESIGN CHOICE (log entry 4): free. Safe. -/
opaque Config.writeLineReads : (Word → Word) → Word → Nat → List Word

end Sys2Proof
end

