-- ==== Sys2Proof/Machine/Trap.lean ====
section
/-! DEFINITION. TRAP with its built-in routines, and the reserved opcodes RTI and RES (`44_trap_and_reserved.md`).
No routine writes `pc` or R7 (R109). -/

namespace Sys2Proof.Machine

/-! ## The routines -/

/-- GETC (R111): `c <- ConsoleIn(); x[0] <- zext_8(c); setcc(x[0])`; with no character available the core holds (R79).
The hold is resumed by the same routine. -/
def getcRoutine (s : State) : State :=
  match s.consoleIn with
  | [] => s.setHold .getc
  | c :: rest => ((s.setConsoleIn rest).setHold .idle).define .r0 (zext8 c)

/-- IN (R114): as GETC, with the character sent back, and no prompt. -/
def inRoutine (s : State) : State :=
  match s.consoleIn with
  | [] => s.setHold .inEcho
  | c :: rest => (((s.setConsoleIn rest).setHold .idle).consolePut c).define .r0 (zext8 c)

/-- The characters of the string at `a` (R113): the low bytes of the cells up to, not including, the first cell that
reads `0x0000`; `none` if none of the next `fuel` cells does. Addresses wrap. -/
def stringAt (m : Memory) (a : Word) : Nat → Option (List Byte)
  | 0 => none
  | fuel + 1 =>
    if m.lookup a.toNat = 0x0000#16 then some []
    else (stringAt m (a + 1) fuel).map (lowByte (m.lookup a.toNat) :: ·)

/-- The string PUTS sends: 65536 cells are all there are, so a string that has not ended after them never does (R113). -/
def State.putsString (s : State) : Option (List Byte) := stringAt s.mem (s.readReg .r0) 65536

/-- PUTS (R113). A string that never ends leaves the core inside the routine, sending for ever (log entry 6). -/
def putsRoutine (s : State) : State :=
  match s.putsString with
  | some cs => s.consolePutAll cs
  | none => s.setHold (.puts (s.readReg .r0))

/-- One turn of the loop of R113, for a string that never ends. -/
def putsResume (a : Word) (s : State) : State :=
  if s.readMem a = 0x0000#16 then s.setHold .idle
  else (s.consolePut (lowByte (s.readMem a))).setHold (.puts (a + 1))

/-- WRITE_LINE(M, x[0]) (R115). -/
def State.writeLineSeq (s : State) : CharSeq := Config.writeLine s.readMem (s.readReg .r0)

/-- WRITELINE (R115): send the sequence; a sequence that never ends leaves the core inside the routine (R116). -/
def writeLineRoutine (s : State) : State :=
  (s.consolePutAll s.writeLineSeq.finitePart).setHold (if s.writeLineSeq.isEndless then .writeLine 0 else s.hold)

/-- The next character of a sequence that never ends (R116). -/
def writeLineResume (sent : Nat) (s : State) : State :=
  match s.writeLineSeq with
  | .finite _ => s.setHold .idle
  | .endless c => (s.consolePut (c sent)).setHold (.writeLine (sent + 1))

/-- A step of a holding core (R79, R82): the routine goes on where it is. -/
def resume (s : State) : State :=
  match s.hold with
  | .idle => s
  | .getc => getcRoutine s
  | .inEcho => inRoutine s
  | .puts a => putsResume a s
  | .writeLine k => writeLineResume k s

/-! ## The meanings -/

/-- TRAP x20, GETC (R111). -/
def execTrapGetc (s : State) : Host.Outcome State Fault Refusal := .next (getcRoutine s)

/-- TRAP x21, OUT (R112). -/
def execTrapOut (s : State) : Host.Outcome State Fault Refusal := .next (s.consolePut (lowByte (s.readReg .r0)))

/-- TRAP x22, PUTS (R113). -/
def execTrapPuts (s : State) : Host.Outcome State Fault Refusal := .next (putsRoutine s)

/-- TRAP x23, IN (R114). -/
def execTrapIn (s : State) : Host.Outcome State Fault Refusal := .next (inRoutine s)

/-- TRAP x24, WRITELINE (R115). -/
def execTrapWriteline (s : State) : Host.Outcome State Fault Refusal := .next (writeLineRoutine s)

/-- TRAP x25, HALT (R117). -/
def execTrapHalt (s : State) : Host.Outcome State Fault Refusal := .next ((s.consoleNotice .halt).stop .haltTrap)

/-- TRAP with an unlisted vector `0x00..0x1F` (R118): nothing. -/
def execTrapUnlisted00 (_vect : BitVec 8) (s : State) : Host.Outcome State Fault Refusal := .next s

/-- TRAP with an unlisted vector `0x26..0x27` (R118): nothing. -/
def execTrapUnlisted26 (_vect : BitVec 8) (s : State) : Host.Outcome State Fault Refusal := .next s

/-- TRAP with an unlisted vector `0x28..0x2F` (R118): nothing. -/
def execTrapUnlisted28 (_vect : BitVec 8) (s : State) : Host.Outcome State Fault Refusal := .next s

/-- TRAP with an unlisted vector `0x30..0x3F` (R118): nothing. -/
def execTrapUnlisted30 (_vect : BitVec 8) (s : State) : Host.Outcome State Fault Refusal := .next s

/-- TRAP with an unlisted vector `0x40..0x7F` (R118): nothing. -/
def execTrapUnlisted40 (_vect : BitVec 8) (s : State) : Host.Outcome State Fault Refusal := .next s

/-- TRAP with an unlisted vector `0x80..0xFF` (R118): nothing. -/
def execTrapUnlisted80 (_vect : BitVec 8) (s : State) : Host.Outcome State Fault Refusal := .next s

/-- RTI (R119): the reserved-opcode fault. -/
def execRti (s : State) : Host.Outcome State Fault Refusal := .next (s.raiseFault .faultRti)

/-- RES (R120): the reserved-opcode fault. -/
def execRes (s : State) : Host.Outcome State Fault Refusal := .next (s.raiseFault .faultRes)

end Sys2Proof.Machine
end

