-- ==== Sys2Proof/Machine/Dispatch.lean ====
section
/-! DEFINITION. Dispatch (`40_execution_cycle.md` R75): each instruction to exactly one meaning. -/

namespace Sys2Proof.Machine

/-- The body of an instruction, on the state after the fetch. -/
def exec (i : Instr) (s : State) : Host.Outcome State Fault Refusal :=
  match i with
  | .br n z p off9 => Sys2Proof.Machine.execBr n z p off9 s
  | .addReg dr sr1 sr2 => Sys2Proof.Machine.execAddReg dr sr1 sr2 s
  | .addImm dr sr1 imm5 => Sys2Proof.Machine.execAddImm dr sr1 imm5 s
  | .ld dr off9 => Sys2Proof.Machine.execLd dr off9 s
  | .st sr off9 => Sys2Proof.Machine.execSt sr off9 s
  | .jsr off11 => Sys2Proof.Machine.execJsr off11 s
  | .jsrr baseR => Sys2Proof.Machine.execJsrr baseR s
  | .andReg dr sr1 sr2 => Sys2Proof.Machine.execAndReg dr sr1 sr2 s
  | .andImm dr sr1 imm5 => Sys2Proof.Machine.execAndImm dr sr1 imm5 s
  | .ldr dr baseR off6 => Sys2Proof.Machine.execLdr dr baseR off6 s
  | .str sr baseR off6 => Sys2Proof.Machine.execStr sr baseR off6 s
  | .rti => Sys2Proof.Machine.execRti s
  | .not dr sr => Sys2Proof.Machine.execNot dr sr s
  | .ldi dr off9 => Sys2Proof.Machine.execLdi dr off9 s
  | .sti sr off9 => Sys2Proof.Machine.execSti sr off9 s
  | .jmp baseR => Sys2Proof.Machine.execJmp baseR s
  | .res => Sys2Proof.Machine.execRes s
  | .lea dr off9 => Sys2Proof.Machine.execLea dr off9 s
  | .trapGetc => Sys2Proof.Machine.execTrapGetc s
  | .trapOut => Sys2Proof.Machine.execTrapOut s
  | .trapPuts => Sys2Proof.Machine.execTrapPuts s
  | .trapIn => Sys2Proof.Machine.execTrapIn s
  | .trapWriteline => Sys2Proof.Machine.execTrapWriteline s
  | .trapHalt => Sys2Proof.Machine.execTrapHalt s
  | .trapUnlisted00 vect => Sys2Proof.Machine.execTrapUnlisted00 vect s
  | .trapUnlisted26 vect => Sys2Proof.Machine.execTrapUnlisted26 vect s
  | .trapUnlisted28 vect => Sys2Proof.Machine.execTrapUnlisted28 vect s
  | .trapUnlisted30 vect => Sys2Proof.Machine.execTrapUnlisted30 vect s
  | .trapUnlisted40 vect => Sys2Proof.Machine.execTrapUnlisted40 vect s
  | .trapUnlisted80 vect => Sys2Proof.Machine.execTrapUnlisted80 vect s

end Sys2Proof.Machine
end

