-- ==== Sys2Proof/Machine/Cycle.lean ====
section
/-! DEFINITION. The fetch-decode-execute cycle (`40_execution_cycle.md` R71 to R79), and the placing of a word where
the next step fetches it. -/

namespace Sys2Proof.Machine

/-- One step. `reset` asserted: the core makes no transaction and the state stays (R6, log entry 10). HALTED: no step is taken, the state stays (R72, log entry 17). Holding inside a TRAP: the routine goes
on (R79). Otherwise fetch, increment, decode, dispatch (R73 to R75). -/
def cycle (s : State) : Host.Outcome State Fault Refusal :=
  if s.resetLine then .next s
  else
    match s.run with
    | .halted => .next s
    | .running =>
      if s.hold = .idle then exec (decode s.fetchWord) s.advance
      else .next (resume s)

/-- The state with the word `w` where the next step fetches, and with the core in the condition in which it does
fetch: `reset` released, RUNNING, so no stop cause, and not holding (log entry 11). -/
def State.placeWord (s : State) (w : Word) : State :=
  { s.writeMem s.pc w with run := .running, stopCause := .none, hold := .idle, resetLine := false }

end Sys2Proof.Machine
end

