-- ==== Sys2Proof/Machine/Step.lean ====
section
/-! DEFINITION. The step of the machine, and the host's placing of an instruction. -/

namespace Sys2Proof.Machine

/-- One step of the core (`40_execution_cycle.md` section 2). -/
def step (s : State) : Host.Outcome State Fault Refusal := cycle s

/-- The instruction whose bits are `w`, numbered as the opcode table numbers them, placed where the next step fetches
it. Every instruction is one cell (R51); bits above `nbits` are zero. -/
def State.withFetchWord (s : State) (nbits w : Nat) : State := s.placeWord (BitVec.ofNat 16 (w % 2 ^ nbits))

end Sys2Proof.Machine
end

