-- ==== Sys2Proof/Machine/Bus.lean ====
section
/-! DEFINITION. The transactions a step makes on the memory port and the console port, first to last (`20_memory.md`
R42, `44_trap_and_reserved.md` R110 to R117). A pure function of the state before the step: the spec gives the machine
no record of them (log entry 9). -/

namespace Sys2Proof.Machine

/-- A transaction (R6, R33, R34, R110), with the value it carries. -/
inductive Txn where
  | memRead (a v : Word)
  | memWrite (a v : Word)
  | consoleIn (c : Byte)
  | consoleOut (c : Byte)
  | consoleNotice (k : Notice)
deriving DecidableEq, Repr

/-- `MemRead(a, 1)` as the state answers it. -/
def State.readTxn (s : State) (a : Word) : Txn := .memRead a (s.readMem a)

/-- The body of GETC (R111): nothing while it waits. -/
def getcTxns (s : State) : List Txn :=
  match s.consoleIn with
  | [] => []
  | c :: _ => [.consoleIn c]

/-- The body of IN (R114): read, then echo. -/
def inTxns (s : State) : List Txn :=
  match s.consoleIn with
  | [] => []
  | c :: _ => [.consoleIn c, .consoleOut c]

/-- The loop of PUTS (R113) over the characters of a string at `a`: a read and a character each, and the read of the
cell that ends it. -/
def putsLoopTxns (s : State) (a : Word) : List Byte → List Txn
  | [] => [s.readTxn a]
  | c :: cs => s.readTxn a :: .consoleOut c :: putsLoopTxns s (a + 1) cs

/-- The body of PUTS (R113). A string that never ends is sent by the steps that resume it (log entry 6). -/
def putsTxns (s : State) : List Txn :=
  match s.putsString with
  | some cs => putsLoopTxns s (s.readReg .r0) cs
  | none => []

/-- One turn of a PUTS that never ends. -/
def putsResumeTxns (a : Word) (s : State) : List Txn :=
  if s.readMem a = 0x0000#16 then [s.readTxn a] else [s.readTxn a, .consoleOut (lowByte (s.readMem a))]

/-- The reads WRITELINE makes before character `k` (R42, R115; log entry 4). -/
def State.writeLineReadTxns (s : State) (k : Nat) : List Txn :=
  (Config.writeLineReads s.readMem (s.readReg .r0) k).map s.readTxn

/-- WRITELINE on a sequence that ends (R115), from character `k` on. -/
def writeLineLoopTxns (s : State) (k : Nat) : List Byte → List Txn
  | [] => s.writeLineReadTxns k
  | c :: cs => s.writeLineReadTxns k ++ .consoleOut c :: writeLineLoopTxns s (k + 1) cs

/-- The body of WRITELINE (R115, R116). -/
def writeLineTxns (s : State) : List Txn :=
  match s.writeLineSeq with
  | .finite cs => writeLineLoopTxns s 0 cs
  | .endless _ => []

/-- One character of a WRITELINE that never ends (R116). -/
def writeLineResumeTxns (sent : Nat) (s : State) : List Txn :=
  match s.writeLineSeq with
  | .finite _ => []
  | .endless c => s.writeLineReadTxns sent ++ [.consoleOut (c sent)]

/-- The transactions of an instruction's body (R42), on the state after the fetch. -/
def bodyTxns (i : Instr) (s : State) : List Txn :=
  match i with
  | .br _ _ _ _ => []
  | .addReg _ _ _ => []
  | .addImm _ _ _ => []
  | .ld _ off9 => [s.readTxn (pcRelative s off9)]
  | .st sr off9 => [.memWrite (pcRelative s off9) (s.readReg sr)]
  | .jsr _ => []
  | .jsrr _ => []
  | .andReg _ _ _ => []
  | .andImm _ _ _ => []
  | .ldr _ baseR off6 => [s.readTxn (basePlus s baseR off6)]
  | .str sr baseR off6 => [.memWrite (basePlus s baseR off6) (s.readReg sr)]
  | .rti => []
  | .not _ _ => []
  | .ldi _ off9 => [s.readTxn (pcRelative s off9), s.readTxn (indirect s off9)]
  | .sti sr off9 => [s.readTxn (pcRelative s off9), .memWrite (indirect s off9) (s.readReg sr)]
  | .jmp _ => []
  | .res => []
  | .lea _ _ => []
  | .trapGetc => getcTxns s
  | .trapOut => [.consoleOut (lowByte (s.readReg .r0))]
  | .trapPuts => putsTxns s
  | .trapIn => inTxns s
  | .trapWriteline => writeLineTxns s
  | .trapHalt => [.consoleNotice .halt]
  | .trapUnlisted00 _ => []
  | .trapUnlisted26 _ => []
  | .trapUnlisted28 _ => []
  | .trapUnlisted30 _ => []
  | .trapUnlisted40 _ => []
  | .trapUnlisted80 _ => []

/-- The transactions of a holding core's step. -/
def resumeTxns (s : State) : List Txn :=
  match s.hold with
  | .idle => []
  | .getc => getcTxns s
  | .inEcho => inTxns s
  | .puts a => putsResumeTxns a s
  | .writeLine k => writeLineResumeTxns k s

/-- The transactions of a step: none while `reset` is asserted (R6), none when HALTED (R72), the fetch first (R42, R73), then the body's. -/
def stepTxns (s : State) : List Txn :=
  if s.resetLine then []
  else
    match s.run with
    | .halted => []
    | .running =>
      if s.hold = .idle then s.readTxn s.pc :: bodyTxns (decode s.fetchWord) s.advance
      else resumeTxns s

/-- What a transaction does to the memory and the console streams of a state (R33, R34, R39, R110). -/
def Txn.apply (s : State) : Txn → State
  | .memRead _ _ => s
  | .memWrite a v => s.writeMem a v
  | .consoleIn _ => s.setConsoleIn s.consoleIn.tail
  | .consoleOut c => s.consolePut c
  | .consoleNotice k => s.consoleNotice k

/-- What a list of transactions does, first to last. -/
def applyTxns (s : State) : List Txn → State
  | [] => s
  | t :: ts => applyTxns (t.apply s) ts

end Sys2Proof.Machine
end

