-- ==== Sys2Proof/Machine/Environment.lean ====
section
/-! DEFINITION. What the environment may do to the block (`70_reset_and_hazards.md` R146, `00_scope.md` R6, R7) besides
driving `reset`, which is in `Ops.lean`: supply characters, read a stopped core or one under `reset`, write memory under
`reset`, and load images (`20_memory.md` R47, R50). None of it is part of a step (log entry 10). -/

namespace Sys2Proof.Machine

/-- The console supplies characters, in order, at the end of what it has supplied before (R110, R146). -/
def State.supply (s : State) (cs : List Byte) : State := { s with consoleIn := s.consoleIn ++ cs }

/-- May the host read registers and memory? When HALTED, and while `reset` is asserted (R6, R50, R146). -/
def State.inspectable (s : State) : Bool := s.run == .halted || s.resetLine

/-- The host reads a slot; a running core has no register port (R6). -/
def State.inspectSlot (s : State) (k : Slot) : Option Word :=
  if s.inspectable then some (s.readSlot k) else none

/-- The host reads a memory cell; a running core is the only master of memory (R6, R50). -/
def State.inspectCell (s : State) (a : Word) : Option Word :=
  if s.inspectable then some (s.readMem a) else none

/-- The host writes a memory cell, which it may only while `reset` is asserted (R50, R144, R146); at any other time there
is no such move (U20). -/
def State.hostWrite (s : State) (a v : Word) : Option State :=
  if s.resetLine then some (s.writeMem a v) else none

/-- The 16-bit word of two file bytes: the first is bits 15:8 (R36, R47). -/
def imageWord (hi lo : Byte) : Word := hi.setWidth 16 <<< 8 ||| lo.setWidth 16

/-- The words of an image after its origin; `none` for a trailing odd byte, which is not in the spec (R47, U16). -/
def imageWords : List Byte → Option (List Word)
  | [] => some []
  | [_] => none
  | hi :: lo :: rest => (imageWords rest).map (imageWord hi lo :: ·)

/-- Words stored from an address on; `none` if one would pass `0xFFFF`, which is not in the spec (R47, U16). -/
def storeWords (m : Memory) (a : Nat) : List Word → Option Memory
  | [] => some m
  | w :: ws => if a < 65536 then storeWords (m.store a w) (a + 1) ws else none

/-- Load one image (R47): origin, then words at rising addresses. Refused (no memory) for what R47 leaves to the loader
outside the block (log entry 15). -/
def loadImage (m : Memory) : List Byte → Option Memory
  | hi :: lo :: rest =>
    match imageWords rest with
    | some ws => storeWords m (imageWord hi lo).toNat ws
    | none => none
  | _ => none

/-- Load images one after the other, a later one over an earlier one. DEDUCED (R47, log entry 15). -/
def loadImages (m : Memory) : List (List Byte) → Option Memory
  | [] => some m
  | image :: images =>
    match loadImage m image with
    | some m' => loadImages m' images
    | none => none

/-- The loader loads images, which it may only while `reset` is asserted (R50, R144). No state results where an image
fails to load: what memory then holds is not in the spec, and `reset` stays asserted (R138, log entry 15). -/
def State.load (s : State) (images : List (List Byte)) : Option State :=
  if s.resetLine then (loadImages s.mem images).map fun m => { s with mem := m } else none

/-- Boot (R144): assert `reset`, load every image, and release `reset` only if all of them were loaded. -/
def State.boot (s : State) (images : List (List Byte)) : Option State :=
  (s.assertReset.load images).map State.releaseReset

end Sys2Proof.Machine
end

