-- ==== Sys2Proof/Safety.lean ====
section
/-! DEFINITION. The terms the statements use: legal states, ready states, what a step leaves alone, and what an
instruction is by its kind. -/

namespace Sys2Proof.Machine

/-- A core whose next step fetches: `reset` released, RUNNING and not holding (R6, R72, R73, R79). -/
def State.ready (s : State) : Bool := !s.resetLine && s.run == .running && s.hold == .idle

/-- The stop cause is NONE exactly while RUNNING (R25, R123). -/
def State.causeLegal (s : State) : Bool := (s.run == .running) == (s.stopCause == .none)

/-- Only a RUNNING core holds (R79). -/
def State.holdLegal (s : State) : Bool := s.hold == .idle || s.run == .running

/-- R0 to R7, PC, COND, run, stop cause and hold are as `reset` leaves them (R29). -/
def State.atReset (s : State) : Bool :=
  s.gpr == State.reset.gpr && s.pc == 0x3000#16 && s.cond == condZro && s.run == .running && s.stopCause == .none &&
    s.hold == .idle

/-- While `reset` is asserted the core holds the reset state (R138, R141). -/
def State.resetLegal (s : State) : Bool := !s.resetLine || s.atReset

/-- A legal state: memory canonical with every address in the 16-bit space (R31), COND one of its three values (R21),
the stop cause in agreement with the run state (R25), no hold in HALTED (R79), and the reset state while `reset` is
asserted (R138, R141). The canonical form is log entry 1's. -/
def State.legal (s : State) : Bool :=
  s.mem.wf && condLegal s.cond && s.causeLegal && s.holdLegal && s.resetLegal

/-- `n` steps, stopping where a step answers no next state. -/
def steps : Nat → State → Host.Outcome State Fault Refusal
  | 0, s => .next s
  | n + 1, s =>
    match step s with
    | .next t => steps n t
    | .fault r => .fault r
    | .refused r => .refused r

/-- Every cell reads the same. -/
def SameMemory (s t : State) : Prop := ∀ a : Word, t.readMem a = s.readMem a

/-- Every cell but those `p` names reads the same. -/
def SameMemoryExcept (p : Word → Prop) (s t : State) : Prop := ∀ a : Word, ¬ p a → t.readMem a = s.readMem a

/-- Every general-purpose register reads the same. -/
def SameRegs (s t : State) : Prop := ∀ r : Reg, t.readReg r = s.readReg r

/-- Every general-purpose register but `dr` reads the same. -/
def SameRegsExcept (dr : Reg) (s t : State) : Prop := ∀ r : Reg, r ≠ dr → t.readReg r = s.readReg r

/-- Run state, stop cause, hold and the `reset` line are the same. -/
def SameControl (s t : State) : Prop :=
  t.run = s.run ∧ t.stopCause = s.stopCause ∧ t.hold = s.hold ∧ t.resetLine = s.resetLine

/-- The console streams are the same. -/
def SameConsole (s t : State) : Prop :=
  t.consoleIn = s.consoleIn ∧ t.consoleOut = s.consoleOut ∧ t.notices = s.notices

/-- What ADD, AND, NOT, LD, LDI, LDR and LEA do with the value `v` (R16, R19, R22, R23): `dr` holds `v`, COND is NEG
where bit 15 of `v` is set, else ZRO where `v` is zero, else POS, and nothing else changes. `s` is the state after the
fetch. -/
def DefinesOnly (dr : Reg) (v : Word) (s t : State) : Prop :=
  t.readReg dr = v ∧
  t.cond = (if v.getLsbD 15 then condNeg else if v = 0x0000#16 then condZro else condPos) ∧
  SameRegsExcept dr s t ∧ t.pc = s.pc ∧ SameMemory s t ∧ SameControl s t ∧ SameConsole s t

/-- What ST, STI and STR do (R34, R96 to R98): the cell at `ea` holds `v`, and nothing else changes. -/
def StoresOnly (ea v : Word) (s t : State) : Prop :=
  t.readMem ea = v ∧ SameMemoryExcept (· = ea) s t ∧
  SameRegs s t ∧ t.pc = s.pc ∧ t.cond = s.cond ∧ SameControl s t ∧ SameConsole s t

/-- Nothing changes but, possibly, the PC. -/
def OnlyPcChanges (s t : State) : Prop :=
  SameRegs s t ∧ t.cond = s.cond ∧ SameMemory s t ∧ SameControl s t ∧ SameConsole s t

/-- Nothing of the register file or memory changes. -/
def SameMachine (s t : State) : Prop :=
  SameRegs s t ∧ t.pc = s.pc ∧ t.cond = s.cond ∧ SameMemory s t

/-- The address an instruction stores to, if it is a store (R42), on the state after the fetch. -/
def storeAddress (i : Instr) (s : State) : Option Word :=
  match i with
  | .st _ off9 => some (pcRelative s off9)
  | .sti _ off9 => some (indirect s off9)
  | .str _ baseR off6 => some (basePlus s baseR off6)
  | _ => none

/-- The register whose value an instruction stores, if it is a store (R16, R53). -/
def storeSource : Instr → Option Reg
  | .st sr _ => some sr
  | .sti sr _ => some sr
  | .str sr _ _ => some sr
  | _ => none

/-- The general-purpose register an instruction writes, if it writes one (the table of R16). -/
def destination : Instr → Option Reg
  | .addReg dr _ _ => some dr
  | .addImm dr _ _ => some dr
  | .andReg dr _ _ => some dr
  | .andImm dr _ _ => some dr
  | .not dr _ => some dr
  | .ld dr _ => some dr
  | .ldi dr _ => some dr
  | .ldr dr _ _ => some dr
  | .lea dr _ => some dr
  | .jsr _ => some .r7
  | .jsrr _ => some .r7
  | .trapGetc => some .r0
  | .trapIn => some .r0
  | _ => none

/-- Is the instruction one that writes COND (the list of R23)? -/
def setsCond : Instr → Bool
  | .jsr _ => false
  | .jsrr _ => false
  | i => (destination i).isSome

/-- Is the instruction one whose body writes PC (R19)? -/
def writesPc : Instr → Bool
  | .br _ _ _ _ => true
  | .jmp _ => true
  | .jsr _ => true
  | .jsrr _ => true
  | _ => false

/-- Is the instruction a TRAP (R108)? -/
def isTrap : Instr → Bool
  | .trapGetc => true
  | .trapOut => true
  | .trapPuts => true
  | .trapIn => true
  | .trapWriteline => true
  | .trapHalt => true
  | .trapUnlisted00 _ => true
  | .trapUnlisted26 _ => true
  | .trapUnlisted28 _ => true
  | .trapUnlisted30 _ => true
  | .trapUnlisted40 _ => true
  | .trapUnlisted80 _ => true
  | _ => false

/-- Is the instruction a TRAP with an unlisted vector, of one of the six rows (R67, R118)? -/
def isUnlistedTrap : Instr → Bool
  | .trapUnlisted00 _ => true
  | .trapUnlisted26 _ => true
  | .trapUnlisted28 _ => true
  | .trapUnlisted30 _ => true
  | .trapUnlisted40 _ => true
  | .trapUnlisted80 _ => true
  | _ => false

/-- The core waits for a character (R79), `reset` being released. -/
def State.waiting (s : State) : Bool := !s.resetLine && s.run == .running && (s.hold == .getc || s.hold == .inEcho)

/-- Does the word enter HALTED by TRAP x25 (R71)? -/
def haltWord (w : Word) : Prop := w.extractLsb' 12 4 = 0b1111#4 ∧ w.extractLsb' 0 8 = 0x25#8

/-- Is the word an RTI (R61, R71)? -/
def rtiWord (w : Word) : Prop := w.extractLsb' 12 4 = 0b1000#4

/-- Is the word a RES (R61, R71)? -/
def resWord (w : Word) : Prop := w.extractLsb' 12 4 = 0b1101#4

/-- The bytes of an image file with this origin and these words (R47): of each the byte of bits 15:8 first. -/
def imageOf (org : Word) (ws : List Word) : List Byte :=
  (org :: ws).flatMap fun w => [w.extractLsb' 8 8, w.extractLsb' 0 8]

end Sys2Proof.Machine
end

