-- ==== Sys2Proof/Certificates/Slice0/Obligations.lean ====
section
/-! DEFINITION. The statements for the provers, from the numbered rules of `spec/`. Each docstring names the rules a
statement comes from, and the spec's own decisions (`92_eei_decisions.md` D<n>) it rests on where it rests on one.
The state `s` an instruction's body starts from is the state after the fetch, its `pc` already incremented (R73). -/

open Sys2Proof Sys2Proof.Machine

/-! ## Encoding (`30_encoding.md`) -/

/-- The decoder reads from the encoder's word of any well-formed instruction that instruction, every operand at every
value (R51 to R59; the opcode numbers are the spec's decision D2, log entry 12). -/
def Obligations.DecodeOfEncodeIsTheInstruction : Prop :=
  ∀ i : Instr, i.wellFormed = true → decode (encode i) = i

/-- The word of the instruction a word decodes to agrees with that word in every bit some field names (R54, R58). -/
def Obligations.EncodeOfDecodeKeepsNamedBits : Prop :=
  ∀ w : Word, encode (decode w) &&& (decode w).usedMask = w &&& (decode w).usedMask

/-- Words that differ only in bits no field names decode to the same instruction (R58, a derivation and decision D4 of
the spec). -/
def Obligations.UnnamedBitsAreIgnored : Prop :=
  ∀ w v : Word, w &&& (decode w).usedMask = v &&& (decode w).usedMask → decode v = decode w

/-- Every word decodes to a well-formed instruction, matches the table row of that instruction and no other of the 30
rows (R60, R67). -/
def Obligations.EveryWordMatchesExactlyItsRow : Prop :=
  ∀ w : Word, (decode w).wellFormed = true ∧ (decode w).row ∈ opcodeTable ∧
    ∀ r ∈ opcodeTable, r.matchesWord w = true ↔ r = (decode w).row

/-- Words written out bit by bit from the patterns of R54, one or two per format, decode to the instruction they stand
for. -/
def Obligations.WrittenOutWordsDecode : Prop :=
  decode 0b0000_001_111111101#16 = .br false false true 0b111111101#9 ∧
  decode 0b0001_010_000_0_00_001#16 = .addReg .r2 .r0 .r1 ∧
  decode 0b0001_010_001_1_11111#16 = .addImm .r2 .r1 0b11111#5 ∧
  decode 0b0101_010_000_0_11_001#16 = .andReg .r2 .r0 .r1 ∧
  decode 0b0101_011_100_1_01111#16 = .andImm .r3 .r4 0b01111#5 ∧
  decode 0b1001_010_001_111111#16 = .not .r2 .r1 ∧
  decode 0b1010_100_000001000#16 = .ldi .r4 0b000001000#9 ∧
  decode 0b0111_010_011_000001#16 = .str .r2 .r3 0b000001#6 ∧
  decode 0b1100_000_111_000000#16 = .jmp .r7 ∧
  decode 0b0100_1_00000000101#16 = .jsr 0b101#11 ∧
  decode 0b0100_0_00_010_000000#16 = .jsrr .r2 ∧
  decode 0b1111_0000_00100101#16 = .trapHalt ∧
  decode 0b1111_0000_11111111#16 = .trapUnlisted80 0xFF#8 ∧
  decode 0b1000_000000000000#16 = .rti ∧
  decode 0b1101_101010111100#16 = .res

/-! ## The cycle (`40_execution_cycle.md`) -/

/-- R73: a step of a running core that does not hold, `reset` being released, reads the word at `pc`, adds one to `pc` modulo 2^16, and then
runs the instruction the word decodes to; nothing else is done around it. -/
def Obligations.StepRunsTheFetchedInstruction : Prop :=
  ∀ s : State, s.resetLine = false → s.run = .running → s.hold = .idle →
    step s = exec (decode (s.readMem s.pc)) { s with pc := s.pc + 1 }

/-- R72: a HALTED core takes no step: nothing changes, however many steps are asked for, no port sees a transaction,
and every slot and cell stays readable for the host; `reset` starts it again. -/
def Obligations.HaltedCoreTakesNoStep : Prop :=
  ∀ s : State, s.run = .halted →
    step s = .next s ∧ (∀ n : Nat, steps n s = .next s) ∧ stepTxns s = [] ∧
    (∀ k : Slot, s.inspectSlot k = some (s.readSlot k)) ∧ (∀ a : Word, s.inspectCell a = some (s.readMem a)) ∧
    s.applyReset.run = .running

/-- R71: the transitions of the run state are exactly these: reset to RUNNING, with PC 0x3000 and COND ZRO; RUNNING to
HALTED by TRAP 0x25 (HALT_TRAP), by opcode 1000 (FAULT_RTI), by opcode 1101 (FAULT_RES); every other step of a running
core leaves it RUNNING with its stop cause; no step leaves HALTED, and none is taken while `reset` is asserted. -/
def Obligations.RunStateTransitions : Prop :=
  (State.reset.run = .running ∧ State.reset.pc = 0x3000#16 ∧ State.reset.cond = condZro) ∧
  (∀ s : State, s.applyReset.run = .running ∧ s.applyReset.pc = 0x3000#16 ∧ s.applyReset.cond = condZro) ∧
  ∀ s t : State, step s = .next t →
    (s.ready = true → haltWord (s.readMem s.pc) → t.run = .halted ∧ t.stopCause = .haltTrap) ∧
    (s.ready = true → rtiWord (s.readMem s.pc) → t.run = .halted ∧ t.stopCause = .faultRti) ∧
    (s.ready = true → resWord (s.readMem s.pc) → t.run = .halted ∧ t.stopCause = .faultRes) ∧
    (s.ready = true → ¬ haltWord (s.readMem s.pc) → ¬ rtiWord (s.readMem s.pc) → ¬ resWord (s.readMem s.pc) →
      t.run = .running ∧ t.stopCause = s.stopCause) ∧
    (s.ready = false → t.run = s.run ∧ t.stopCause = s.stopCause)

/-- No state stops the model: every step answers a next state (R32: no address faults; R60: every word is an
instruction; R126: the only faults are transitions to HALTED; a wait and an endless routine are states, log entries 5
and 6). -/
def Obligations.EveryStepHasANextState : Prop := ∀ s : State, ∃ t : State, step s = .next t

/-! ## Extension and flags (`00_scope.md` R10, `10_state.md` R20 to R23) -/

/-- R10: for N in 5, 6, 9, 11, `sext_N(f)` is `f` where bit N-1 is clear, and `f + 65536 - 2^N`, which is `f` with every
bit above set, where it is set; read as a signed number it is `f - 2^N` there. -/
def Obligations.SignExtensionOfFields : Prop :=
  ∀ n ∈ [5, 6, 9, 11], ∀ f : BitVec n,
    (f.getLsbD (n - 1) = false → (sext n f).toNat = f.toNat ∧ (sext n f).toInt = (f.toNat : Int)) ∧
    (f.getLsbD (n - 1) = true →
      (sext n f).toNat = f.toNat + 65536 - 2 ^ n ∧ (sext n f).toInt = (f.toNat : Int) - 2 ^ n ∧
      sext n f = f.setWidth 16 ||| (0xFFFF#16 <<< n))

/-- R22: `setcc(x[r])` sets COND to NEG where bit 15 of the register is set, else to ZRO where it is zero, else to POS,
and changes nothing else. -/
def Obligations.SetccByBitFifteenAndZero : Prop :=
  ∀ (s : State) (r : Reg),
    (s.setcc r).cond =
      (if (s.readReg r).getLsbD 15 then condNeg else if s.readReg r = 0x0000#16 then condZro else condPos) ∧
    (0x8000 ≤ (s.readReg r).toNat → (s.setcc r).cond = condNeg) ∧
    (1 ≤ (s.readReg r).toNat ∧ (s.readReg r).toNat ≤ 0x7FFF → (s.setcc r).cond = condPos) ∧
    SameRegs s (s.setcc r) ∧ (s.setcc r).pc = s.pc ∧ SameMemory s (s.setcc r) ∧
    SameControl s (s.setcc r) ∧ SameConsole s (s.setcc r)

/-- R21: COND is exactly one of POS, ZRO, NEG from reset onward: at reset, after `reset` from any state, and after
every step from a state in which it is. The three are distinct. -/
def Obligations.CondIsAlwaysOneFlag : Prop :=
  (condPos ≠ condZro ∧ condZro ≠ condNeg ∧ condPos ≠ condNeg) ∧ condLegal State.reset.cond = true ∧
  (∀ s : State, condLegal s.applyReset.cond = true) ∧
  ∀ s t : State, condLegal s.cond = true → step s = .next t → condLegal t.cond = true

/-- The test of BR is the bit test of R106: for a legal COND it is `(nzp AND cond[2:0]) != 0`; with all three bits it is
always taken; with none it is never taken, whatever COND holds (R62, R106; values and bit map are decision D3 of the
spec). -/
def Obligations.BranchTestIsTheBitTest : Prop :=
  (∀ (n z p : Bool) (c : Word), condLegal c = true →
    (branchTaken n z p c = true ↔
      (BitVec.ofBool n ++ BitVec.ofBool z ++ BitVec.ofBool p) &&& c.extractLsb' 0 3 ≠ 0#3)) ∧
  (∀ c : Word, condLegal c = true → branchTaken true true true c = true) ∧
  (∀ c : Word, branchTaken false false false c = false)

/-! ## Operate instructions (`41_operate.md`) -/

/-- R83: the words `0001 DR SR1 0 xx SR2` are ADD, register form, whatever bits 4:3; it writes the sum modulo 2^16 of
the two registers, read before the write, to DR, sets COND from it, and changes nothing else. -/
def Obligations.AddRegisterForm : Prop :=
  (∀ w : Word, w.extractLsb' 12 4 = 0b0001#4 → w.getLsbD 5 = false →
    decode w = .addReg (Reg.ofBits (w.extractLsb' 9 3)) (Reg.ofBits (w.extractLsb' 6 3))
      (Reg.ofBits (w.extractLsb' 0 3))) ∧
  ∀ (dr sr1 sr2 : Reg) (s : State), ∃ t : State, exec (.addReg dr sr1 sr2) s = .next t ∧
    (t.readReg dr).toNat = ((s.readReg sr1).toNat + (s.readReg sr2).toNat) % 2 ^ 16 ∧
    DefinesOnly dr (s.readReg sr1 + s.readReg sr2) s t

/-- R84: the words `0001 DR SR1 1 imm5` are ADD, immediate form; it writes the sum modulo 2^16 of the register and the
sign-extended immediate to DR, sets COND from it, and changes nothing else. -/
def Obligations.AddImmediateForm : Prop :=
  (∀ w : Word, w.extractLsb' 12 4 = 0b0001#4 → w.getLsbD 5 = true →
    decode w = .addImm (Reg.ofBits (w.extractLsb' 9 3)) (Reg.ofBits (w.extractLsb' 6 3)) (w.extractLsb' 0 5)) ∧
  ∀ (dr sr1 : Reg) (imm5 : BitVec 5) (s : State), ∃ t : State, exec (.addImm dr sr1 imm5) s = .next t ∧
    (t.readReg dr).toNat = ((s.readReg sr1).toNat + (sext 5 imm5).toNat) % 2 ^ 16 ∧
    DefinesOnly dr (s.readReg sr1 + sext 5 imm5) s t

/-- AND, both forms (R85, R86): the bitwise conjunction, bit by bit, of the two registers, or of the register and the
sign-extended immediate, goes to DR with its flag; nothing else changes. -/
def Obligations.AndBothForms : Prop :=
  (∀ (dr sr1 sr2 : Reg) (s : State), ∃ t : State, exec (.andReg dr sr1 sr2) s = .next t ∧
    (∀ k, (t.readReg dr).getLsbD k = ((s.readReg sr1).getLsbD k && (s.readReg sr2).getLsbD k)) ∧
    DefinesOnly dr (s.readReg sr1 &&& s.readReg sr2) s t) ∧
  ∀ (dr sr1 : Reg) (imm5 : BitVec 5) (s : State), ∃ t : State, exec (.andImm dr sr1 imm5) s = .next t ∧
    (∀ k, (t.readReg dr).getLsbD k = ((s.readReg sr1).getLsbD k && (sext 5 imm5).getLsbD k)) ∧
    DefinesOnly dr (s.readReg sr1 &&& sext 5 imm5) s t

/-- NOT (R87): the complement of all sixteen bits, `65535 - a`, goes to DR with its flag; nothing else changes. -/
def Obligations.NotComplements : Prop :=
  ∀ (dr sr : Reg) (s : State), ∃ t : State, exec (.not dr sr) s = .next t ∧
    (t.readReg dr).toNat = 65535 - (s.readReg sr).toNat ∧ DefinesOnly dr (~~~ s.readReg sr) s t

/-- NOT followed by ADD #1 on its result negates modulo 2^16, and COND is that of the negation (R89, a derivation of the
spec). -/
def Obligations.NotThenAddOneNegates : Prop :=
  ∀ (dr sr : Reg) (s : State), ∃ t u : State, exec (.not dr sr) s = .next t ∧
    exec (.addImm dr dr 0b00001#5) t = .next u ∧ DefinesOnly dr (0x0000#16 - s.readReg sr) s u

/-! ## Loads, LEA, stores (`42_load_store.md`) -/

/-- LD (R92), LDI (R93) and LDR (R94): the cell at the effective address, modulo 2^16, goes to DR with its flag; for LDI
the effective address is the content of the pointer cell; nothing else changes, the base register included. -/
def Obligations.LoadsDefineTheirRegister : Prop :=
  (∀ (dr : Reg) (off9 : BitVec 9) (s : State), ∃ t : State, exec (.ld dr off9) s = .next t ∧
    DefinesOnly dr (s.readMem (s.pc + sext 9 off9)) s t) ∧
  (∀ (dr : Reg) (off9 : BitVec 9) (s : State), ∃ t : State, exec (.ldi dr off9) s = .next t ∧
    DefinesOnly dr (s.readMem (s.readMem (s.pc + sext 9 off9))) s t) ∧
  (∀ (dr baseR : Reg) (off6 : BitVec 6) (s : State), ∃ t : State, exec (.ldr dr baseR off6) s = .next t ∧
    DefinesOnly dr (s.readMem (s.readReg baseR + sext 6 off6)) s t)

/-- LEA (R95): the address itself goes to DR, with its flag, and no data access is made. -/
def Obligations.LeaDefinesTheAddress : Prop :=
  ∀ (dr : Reg) (off9 : BitVec 9) (s : State), ∃ t : State, exec (.lea dr off9) s = .next t ∧
    DefinesOnly dr (s.pc + sext 9 off9) s t ∧ bodyTxns (.lea dr off9) s = []

/-- ST (R96), STI (R97) and STR (R98): the cell at the effective address, modulo 2^16, holds the value of SR; for STI the
pointer is read before the write; every other cell, every register, PC and COND stay. -/
def Obligations.StoresStoreTheirRegister : Prop :=
  (∀ (sr : Reg) (off9 : BitVec 9) (s : State), ∃ t : State, exec (.st sr off9) s = .next t ∧
    StoresOnly (s.pc + sext 9 off9) (s.readReg sr) s t) ∧
  (∀ (sr : Reg) (off9 : BitVec 9) (s : State), ∃ t : State, exec (.sti sr off9) s = .next t ∧
    StoresOnly (s.readMem (s.pc + sext 9 off9)) (s.readReg sr) s t) ∧
  (∀ (sr baseR : Reg) (off6 : BitVec 6) (s : State), ∃ t : State, exec (.str sr baseR off6) s = .next t ∧
    StoresOnly (s.readReg baseR + sext 6 off6) (s.readReg sr) s t)

/-- A cell an instruction stores to is seen by the very next fetch: if a store goes to the cell fetched next, the next
step runs the stored word (R45, R149, derivations of the spec). -/
def Obligations.StoreIsSeenByTheNextFetch : Prop :=
  ∀ (s t : State) (r : Reg), s.ready = true → step s = .next t →
    storeAddress (decode (s.readMem s.pc)) { s with pc := s.pc + 1 } = some t.pc →
    storeSource (decode (s.readMem s.pc)) = some r →
    step t = exec (decode (s.readReg r)) { t with pc := t.pc + 1 }

/-! ## Control transfer (`43_control.md`) -/

/-- JMP (R103): PC is the value of the base register; nothing else changes. RET, `0xC1C0`, is JMP R7. -/
def Obligations.JmpSetsPc : Prop :=
  decode 0xC1C0#16 = .jmp .r7 ∧
  ∀ (baseR : Reg) (s : State), ∃ t : State, exec (.jmp baseR) s = .next t ∧
    t.pc = s.readReg baseR ∧ OnlyPcChanges s t

/-- JSR (R104): R7 is the incremented PC, PC is that plus the sign-extended offset; COND, though R7 is written, and
everything else stay. -/
def Obligations.JsrLinksAndJumps : Prop :=
  ∀ (off11 : BitVec 11) (s : State), ∃ t : State, exec (.jsr off11) s = .next t ∧
    t.readReg .r7 = s.pc ∧ t.pc = s.pc + sext 11 off11 ∧ SameRegsExcept .r7 s t ∧ t.cond = s.cond ∧
    SameMemory s t ∧ SameControl s t ∧ SameConsole s t

/-- JSRR (R105): R7 is written first, so with base R0 to R6 PC is the base register's value, and with base R7 PC stays
the incremented PC; COND and everything else stay. -/
def Obligations.JsrrLinksThenReadsItsBase : Prop :=
  ∀ (baseR : Reg) (s : State), ∃ t : State, exec (.jsrr baseR) s = .next t ∧
    t.readReg .r7 = s.pc ∧ (baseR ≠ .r7 → t.pc = s.readReg baseR) ∧ (baseR = .r7 → t.pc = s.pc) ∧
    SameRegsExcept .r7 s t ∧ t.cond = s.cond ∧ SameMemory s t ∧ SameControl s t ∧ SameConsole s t

/-- BR (R106): taken where a requested flag is the one COND holds; then PC is the incremented PC plus the sign-extended
offset, else it stays; nothing else changes. -/
def Obligations.BrBranchesOnTheRequestedFlag : Prop :=
  ∀ (n z p : Bool) (off9 : BitVec 9) (s : State), ∃ t : State, exec (.br n z p off9) s = .next t ∧
    t.pc = (if (n = true ∧ s.cond = condNeg) ∨ (z = true ∧ s.cond = condZro) ∨ (p = true ∧ s.cond = condPos)
      then s.pc + sext 9 off9 else s.pc) ∧
    OnlyPcChanges s t

/-- A call and its return (R102): after a JSR or JSRR at an address, a RET executed later with R7 unchanged goes to the
address after the call. -/
def Obligations.ReturnGoesAfterTheCall : Prop :=
  ∀ s t u : State, s.ready = true → step s = .next t →
    (∃ off11, decode (s.readMem s.pc) = .jsr off11) ∨ (∃ baseR, decode (s.readMem s.pc) = .jsrr baseR) →
    u.ready = true → u.readMem u.pc = 0xC1C0#16 → u.readReg .r7 = t.readReg .r7 →
    ∃ v : State, step u = .next v ∧ v.pc = s.pc + 1

/-- A memory of zeros executes as an endless run of no-operations (R62): after any number of steps PC has advanced by
that number, modulo 2^16, and nothing else has changed. -/
def Obligations.ZeroMemoryRunsOnForEver : Prop :=
  ∀ (s : State) (n : Nat), s.ready = true → (∀ a : Word, s.readMem a = 0x0000#16) →
    steps n s = .next { s with pc := s.pc + BitVec.ofNat 16 n }

/-- The words `0x0000..0x01FF` are no-operations: the step changes PC alone, by plus one (R62). -/
def Obligations.BranchOnNothingIsANoOperation : Prop :=
  ∀ s : State, s.ready = true → (s.readMem s.pc).toNat < 0x0200 → step s = .next { s with pc := s.pc + 1 }

/-! ## TRAP and its routines (`44_trap_and_reserved.md`) -/

/-- GETC completes where a character is available (R111): it is taken, R0 is its zero extension, COND is ZRO for the
character 0 and POS for any other, nothing is sent, nothing else changes (R0, the extension and the flag are decisions
D6 and D7 of the spec). -/
def Obligations.GetcReadsACharacter : Prop :=
  ∀ (s : State) (c : Byte) (rest : List Byte), s.consoleIn = c :: rest →
    ∃ t : State, exec .trapGetc s = .next t ∧ t.readReg .r0 = c.setWidth 16 ∧
      t.cond = (if c = 0x00#8 then condZro else condPos) ∧ t.consoleIn = rest ∧ t.consoleOut = s.consoleOut ∧
      t.notices = s.notices ∧ SameRegsExcept .r0 s t ∧ t.pc = s.pc ∧ SameMemory s t ∧
      t.run = s.run ∧ t.stopCause = s.stopCause ∧ t.hold = .idle ∧ t.resetLine = s.resetLine

/-- IN completes where a character is available (R114): as GETC, and the character is sent back, with no prompt
(decisions D6, D7, D17 of the spec). -/
def Obligations.InReadsAndEchoesACharacter : Prop :=
  ∀ (s : State) (c : Byte) (rest : List Byte), s.consoleIn = c :: rest →
    ∃ t : State, exec .trapIn s = .next t ∧ t.readReg .r0 = c.setWidth 16 ∧
      t.cond = (if c = 0x00#8 then condZro else condPos) ∧ t.consoleIn = rest ∧
      t.consoleOut = s.consoleOut ++ [c] ∧
      t.notices = s.notices ∧ SameRegsExcept .r0 s t ∧ t.pc = s.pc ∧ SameMemory s t ∧
      t.run = s.run ∧ t.stopCause = s.stopCause ∧ t.hold = .idle ∧ t.resetLine = s.resetLine

/-- GETC and IN wait where no character is available (R79): the core holds in the middle of the TRAP with nothing else
changed, stays so however many steps are asked for, and when a character comes the step it takes next is the completion
of the same routine. That the wait is a state which steps resume is the model's choice, log entry 5. -/
def Obligations.InputRoutinesWaitForACharacter : Prop :=
  (∀ s : State, s.consoleIn = [] → exec .trapGetc s = .next { s with hold := .getc } ∧
    exec .trapIn s = .next { s with hold := .inEcho }) ∧
  (∀ (s : State) (n : Nat), s.waiting = true → s.consoleIn = [] → steps n s = .next s) ∧
  (∀ (s : State) (c : Byte) (cs : List Byte), s.resetLine = false → s.run = .running → s.consoleIn = [] →
    (s.hold = .getc → step (s.supply (c :: cs)) = exec .trapGetc (s.supply (c :: cs))) ∧
    (s.hold = .inEcho → step (s.supply (c :: cs)) = exec .trapIn (s.supply (c :: cs))))

/-- OUT (R112): the low 8 bits of R0 are sent, and nothing else changes (R0 is decision D6 of the spec). -/
def Obligations.OutSendsTheLowByte : Prop :=
  ∀ s : State, ∃ t : State, exec .trapOut s = .next t ∧
    t.consoleOut = s.consoleOut ++ [(s.readReg .r0).extractLsb' 0 8] ∧ SameMachine s t ∧ SameControl s t ∧
    t.consoleIn = s.consoleIn ∧ t.notices = s.notices

/-- PUTS on a string that ends (R113): the low bytes of the cells from the one R0 names, addresses modulo 2^16, up to the
first cell that is `0x0000`, are sent in order, and nothing else changes (R0 and the whole-cell terminator are decisions
D6 and D17 of the spec). -/
def Obligations.PutsSendsTheString : Prop :=
  ∀ (s : State) (cs : List Byte), cs.length < 65536 →
    (∀ (k : Nat) (h : k < cs.length), s.readMem (s.readReg .r0 + BitVec.ofNat 16 k) ≠ 0x0000#16 ∧
      cs[k] = (s.readMem (s.readReg .r0 + BitVec.ofNat 16 k)).extractLsb' 0 8) →
    s.readMem (s.readReg .r0 + BitVec.ofNat 16 cs.length) = 0x0000#16 →
    ∃ t : State, exec .trapPuts s = .next t ∧ t.consoleOut = s.consoleOut ++ cs ∧ SameMachine s t ∧
      SameControl s t ∧ t.consoleIn = s.consoleIn ∧ t.notices = s.notices

/-- PUTS where no cell of memory is `0x0000` never ends (R113): the core stays inside the routine, RUNNING, and sends the
low byte of cell after cell, cycling through memory, for as many steps as are asked for. One character a step is the
model's choice, log entry 6. -/
def Obligations.PutsWithoutATerminatorNeverEnds : Prop :=
  ∀ s : State, (∀ a : Word, s.readMem a ≠ 0x0000#16) →
    exec .trapPuts s = .next { s with hold := .puts (s.readReg .r0) } ∧
    ∀ (a : Word) (n : Nat), s.resetLine = false → s.run = .running → s.hold = .puts a →
      steps n s = .next { s with
        consoleOut := s.consoleOut ++
          (List.range n).map fun k => (s.readMem (a + BitVec.ofNat 16 k)).extractLsb' 0 8,
        hold := .puts (a + BitVec.ofNat 16 n) }

/-- WRITELINE (R115, R116): whatever WRITE_LINE is, the registers, PC, COND, memory, run state, input and notices stay; a
sequence that ends is sent whole; of one that never ends each further step sends the next character (that the core then
holds, one character a step, is the model's choice, log entry 3). The sequence is a free value: the statement holds for
every one. -/
def Obligations.WritelineSendsTheParameter : Prop :=
  (∀ s : State, ∃ t : State, exec .trapWriteline s = .next t ∧ SameMachine s t ∧ t.run = s.run ∧
    t.stopCause = s.stopCause ∧ t.resetLine = s.resetLine ∧ t.consoleIn = s.consoleIn ∧ t.notices = s.notices ∧
    (∀ cs, Config.writeLine s.readMem (s.readReg .r0) = .finite cs →
      t.consoleOut = s.consoleOut ++ cs ∧ t.hold = s.hold) ∧
    (∀ c, Config.writeLine s.readMem (s.readReg .r0) = .endless c →
      t.consoleOut = s.consoleOut ∧ t.hold = .writeLine 0)) ∧
  (∀ (s : State) (k : Nat), s.resetLine = false → s.run = .running → s.hold = .writeLine k →
    ∃ t : State, step s = .next t ∧ SameMachine s t ∧ t.run = s.run ∧ t.stopCause = s.stopCause ∧
      t.resetLine = s.resetLine ∧ t.consoleIn = s.consoleIn ∧ t.notices = s.notices ∧
      (∀ c, Config.writeLine s.readMem (s.readReg .r0) = .endless c →
        t.consoleOut = s.consoleOut ++ [c k] ∧ t.hold = .writeLine (k + 1)))

/-- HALT (R117): the notice is given, the core is HALTED with HALT_TRAP, and PC, registers, COND, memory and the console
streams stay; the step after it changes nothing. -/
def Obligations.HaltStopsTheCore : Prop :=
  ∀ s : State, ∃ t : State, exec .trapHalt s = .next t ∧ t.run = .halted ∧ t.stopCause = .haltTrap ∧
    t.notices = s.notices ++ [.halt] ∧ SameMachine s t ∧ t.hold = s.hold ∧ t.resetLine = s.resetLine ∧ t.consoleIn = s.consoleIn ∧
    t.consoleOut = s.consoleOut ∧ step t = .next t

/-- TRAP with an unlisted vector (R118): nothing at all changes, for the instructions of all six rows and every vector;
a TRAP word decodes to one of them exactly where its vector lies outside `0x20..0x25`, and then nothing changes
either (decision D9 of the spec). -/
def Obligations.UnlistedTrapsDoNothing : Prop :=
  (∀ (v : BitVec 8) (s : State), exec (.trapUnlisted00 v) s = .next s ∧ exec (.trapUnlisted26 v) s = .next s ∧
    exec (.trapUnlisted28 v) s = .next s ∧ exec (.trapUnlisted30 v) s = .next s ∧
    exec (.trapUnlisted40 v) s = .next s ∧ exec (.trapUnlisted80 v) s = .next s) ∧
  ∀ w : Word, w.extractLsb' 12 4 = 0b1111#4 →
    (isUnlistedTrap (decode w) = true ↔
      ¬ (0x20 ≤ (w.extractLsb' 0 8).toNat ∧ (w.extractLsb' 0 8).toNat ≤ 0x25)) ∧
    ∀ s : State, ¬ (0x20 ≤ (w.extractLsb' 0 8).toNat ∧ (w.extractLsb' 0 8).toNat ≤ 0x25) →
      exec (decode w) s = .next s

/-- TRAP, with any vector, leaves PC, R1 to R7 and memory alone (R109; that R7 stays is decision D8 of the spec). -/
def Obligations.TrapsKeepPcLinkAndMemory : Prop :=
  ∀ (i : Instr) (s : State), isTrap i = true → ∃ t : State, exec i s = .next t ∧ t.pc = s.pc ∧
    t.readReg .r7 = s.readReg .r7 ∧ SameRegsExcept .r0 s t ∧ SameMemory s t

/-! ## The fault (`60_exceptions.md`) -/

/-- R126: `raise Fault(cause)`, which is what RTI and RES do: run becomes HALTED and the stop cause the cause; no
register, no cell, not COND and not PC change; the core takes no further step. -/
def Obligations.ReservedOpcodesRaiseTheFault : Prop :=
  ∀ s : State,
    (∃ t : State, exec .rti s = .next t ∧ t.run = .halted ∧ t.stopCause = .faultRti ∧ SameMachine s t ∧
      t.hold = s.hold ∧ t.resetLine = s.resetLine ∧ SameConsole s t ∧ step t = .next t) ∧
    (∃ t : State, exec .res s = .next t ∧ t.run = .halted ∧ t.stopCause = .faultRes ∧ SameMachine s t ∧
      t.hold = s.hold ∧ t.resetLine = s.resetLine ∧ SameConsole s t ∧ step t = .next t)

/-- The faulting instruction is found behind PC (R124, a derivation of the spec): where a step from a running core with
no stop cause ends with a fault's cause, the word at `pc - 1` is a reserved one of that cause, and it is the word
fetched. -/
def Obligations.FaultingWordIsBehindThePc : Prop :=
  ∀ s t : State, s.ready = true → s.stopCause = .none → step s = .next t →
    (t.stopCause = .faultRti → rtiWord (t.readMem (t.pc - 1)) ∧ t.pc - 1 = s.pc) ∧
    (t.stopCause = .faultRes → resWord (t.readMem (t.pc - 1)) ∧ t.pc - 1 = s.pc)

/-! ## Reset and loading (`70_reset_and_hazards.md`, `20_memory.md`) -/

/-- What `reset` leaves, from any state, waiting or HALTED included (R29, R141, R143): registers zero, PC `0x3000`, COND
ZRO, RUNNING, no stop cause, no wait; memory and the console streams untouched. `State.reset` has the same. That reset
keeps memory is decision D14, the stop cause decision D11 of the spec; the streams `State.reset` starts with are the
model's choice, log entry 7. -/
def Obligations.ResetValues : Prop :=
  (∀ s : State, (∀ r : Reg, s.applyReset.readReg r = 0x0000#16) ∧ s.applyReset.pc = 0x3000#16 ∧
    s.applyReset.cond = condZro ∧ s.applyReset.run = .running ∧ s.applyReset.stopCause = .none ∧
    s.applyReset.hold = .idle ∧ s.applyReset.resetLine = false ∧ s.applyReset.mem = s.mem ∧
    SameConsole s s.applyReset) ∧
  (∀ r : Reg, State.reset.readReg r = 0x0000#16) ∧ State.reset.pc = 0x3000#16 ∧ State.reset.cond = condZro ∧
  State.reset.run = .running ∧ State.reset.stopCause = .none ∧ State.reset.hold = .idle ∧ State.reset.resetLine = false

/-- Every MEM0 (R46) is the memory of some state, and of one only: for every function from addresses to cells there is
exactly one canonical memory that reads as it. -/
def Obligations.EveryInitialMemoryIsOneCanonicalList : Prop :=
  (∀ f : Word → Word, ∃ m : Memory, m.wf = true ∧ ∀ a : Word, (State.resetWith m).readMem a = f a) ∧
  ∀ m m' : Memory, m.wf = true → m'.wf = true →
    (∀ a : Word, (State.resetWith m).readMem a = (State.resetWith m').readMem a) → m = m'

/-- Loading an image (R47): the words of an image file with an origin, of each the byte of bits 15:8 first, go to rising
addresses from the origin on, and every other cell stays; the memory stays canonical. For images that end at or below
`0xFFFF`: what a loader does beyond is not in the spec. -/
def Obligations.ImageWordsGoToRisingAddresses : Prop :=
  ∀ (m : Memory) (org : Word) (ws : List Word), m.wf = true → org.toNat + ws.length ≤ 65536 →
    ∃ m' : Memory, loadImage m (imageOf org ws) = some m' ∧ m'.wf = true ∧
      (∀ (k : Nat) (h : k < ws.length), m'.lookup (org.toNat + k) = ws[k]) ∧
      ∀ a : Nat, a < org.toNat ∨ org.toNat + ws.length ≤ a → m'.lookup a = m.lookup a

/-! ## Invariants and whole-machine rules -/

/-- Every step keeps a state legal: memory inside the 16-bit space (R31) and in canonical form (the model's choice, log
entry 1), COND one of its three values (R21), the stop cause NONE exactly while RUNNING (R25, decision D11 of the spec),
no wait in HALTED (R79; that a wait is a state is the model's choice, log entry 5), the reset state while `reset` is
asserted (R138, R141; deduced, log entry 10). -/
def Obligations.EveryStepKeepsTheStateLegal : Prop :=
  ∀ s t : State, s.legal = true → step s = .next t → t.legal = true

/-- The reset state is legal, and so is the state `reset` leaves from any state with a canonical memory, asserted or
released (the canonical form is the model's choice, log entry 1). -/
def Obligations.ResetStateIsLegal : Prop :=
  State.reset.legal = true ∧
  ∀ s : State, s.mem.wf = true → s.assertReset.legal = true ∧ s.applyReset.legal = true

/-- A step changes at most one cell, the one the store's effective address names, and only where the fetched instruction
is ST, STI or STR (R42, R39): every other cell, and every cell for every other step, reads as before. -/
def Obligations.OnlyStoresChangeMemory : Prop :=
  ∀ s t : State, step s = .next t →
    SameMemoryExcept
      (fun a => s.ready = true ∧ storeAddress (decode (s.readMem s.pc)) { s with pc := s.pc + 1 } = some a) s t

/-- A step changes at most one general-purpose register: the one R16 lists for the fetched instruction, or R0 when a
waiting GETC or IN completes (R16, a derivation of the spec). -/
def Obligations.OnlyTheDestinationChanges : Prop :=
  ∀ (s t : State) (r : Reg), step s = .next t → t.readReg r ≠ s.readReg r →
    (s.ready = true ∧ destination (decode (s.readMem s.pc)) = some r) ∨ (s.waiting = true ∧ r = .r0)

/-- A step changes COND only where the fetched instruction is one R23 lists, or when a waiting GETC or IN completes; JSR
and JSRR, which write R7, do not (R23, R76; GETC and IN are decision D7 of the spec). -/
def Obligations.OnlyListedInstructionsChangeCond : Prop :=
  ∀ s t : State, step s = .next t → t.cond ≠ s.cond →
    (s.ready = true ∧ setsCond (decode (s.readMem s.pc)) = true) ∨ s.waiting = true

/-- A step that fetches advances PC by one modulo 2^16 unless the instruction is BR, JMP, JSR or JSRR; a step that does
not fetch leaves PC (R19, R72, R79, R101). -/
def Obligations.PcAdvancesByOneOtherwise : Prop :=
  ∀ s t : State, step s = .next t →
    (s.ready = true → writesPc (decode (s.readMem s.pc)) = false → t.pc = s.pc + 1) ∧
    (s.ready = false → t.pc = s.pc)

/-- The port transactions of a step account for all it does to memory and the console, whichever step it is: replaying
them, first to last, on the state before gives the memory, the input left, the output and the notices of the state
after; every read carries the cell's value before the step; a step that fetches reads the cell at PC first (R42, R110;
the order within a step is decision D16 of the spec, log entry 9). -/
def Obligations.TransactionsAccountForTheStep : Prop :=
  ∀ s t : State, step s = .next t →
    (applyTxns s (stepTxns s)).mem = t.mem ∧ (applyTxns s (stepTxns s)).consoleIn = t.consoleIn ∧
    (applyTxns s (stepTxns s)).consoleOut = t.consoleOut ∧ (applyTxns s (stepTxns s)).notices = t.notices ∧
    (∀ a v : Word, .memRead a v ∈ stepTxns s → v = s.readMem a) ∧
    (s.ready = true → (stepTxns s).head? = some (.memRead s.pc (s.readMem s.pc)))

/-- Output is only ever appended and never read (R110): a step's output does not depend on the output before it, and
two states that differ only in the output so far take steps that differ only in it. -/
def Obligations.OutputNeverInfluencesAStep : Prop :=
  ∀ s t : State, step s = .next t → ∃ sent : List Byte, t.consoleOut = s.consoleOut ++ sent ∧
    ∀ out : List Byte, step { s with consoleOut := out } = .next { t with consoleOut := out ++ sent }

/-- Input is consumed in order, at most one character a step, and only by GETC, IN or the wait of one of them (R110,
R146). -/
def Obligations.InputIsConsumedInOrder : Prop :=
  ∀ s t : State, step s = .next t →
    t.consoleIn = s.consoleIn ∨
    (∃ c, s.consoleIn = c :: t.consoleIn) ∧
      ((s.ready = true ∧ (decode (s.readMem s.pc) = .trapGetc ∨ decode (s.readMem s.pc) = .trapIn)) ∨
        s.waiting = true)

/-- The register file's contract (R12, R13): ten slots with distinct numbers 0 to 9; a slot reads as what was last
written to it, all sixteen bits; a write changes no other slot and nothing outside the register file (the numbers 8 and
9 are a derivation of the spec). -/
def Obligations.SlotsKeepTheContract : Prop :=
  (∀ j k : Slot, j.index = k.index → j = k) ∧ (∀ k : Slot, k.index < 10) ∧
  ∀ (s : State) (k : Slot) (v : Word), (s.writeSlot k v).readSlot k = v ∧
    (∀ j : Slot, j ≠ k → (s.writeSlot k v).readSlot j = s.readSlot j) ∧
    SameMemory s (s.writeSlot k v) ∧ SameControl s (s.writeSlot k v) ∧ SameConsole s (s.writeSlot k v)

/-! ## The `reset` line and the host (`00_scope.md` R6, `20_memory.md` R50, `70_reset_and_hazards.md` R144, R146) -/

/-- While `reset` is asserted (R6) the core makes no transaction and takes no step, however many are asked for; asserting
it, from any state, raises the line, brings the reset values and keeps memory and the console streams; releasing it
lowers the line and changes nothing else, so the first fetch is of `0x3000` (R141). That the reset values stand while the
line is asserted is deduced, log entry 10; that memory stays is decision D14 of the spec. -/
def Obligations.ResetHeldAssertedHoldsTheCore : Prop :=
  (∀ s : State, s.resetLine = true → stepTxns s = [] ∧ ∀ n : Nat, steps n s = .next s) ∧
  (∀ s : State, s.assertReset.resetLine = true ∧ s.assertReset.atReset = true ∧
    (∀ r : Reg, s.assertReset.readReg r = 0x0000#16) ∧ s.assertReset.mem = s.mem ∧ SameConsole s s.assertReset) ∧
  (∀ s : State, s.releaseReset.resetLine = false ∧ SameMachine s s.releaseReset ∧ s.releaseReset.run = s.run ∧
    s.releaseReset.stopCause = s.stopCause ∧ s.releaseReset.hold = s.hold ∧ SameConsole s s.releaseReset) ∧
  ∀ s : State, s.resetLine = true → s.atReset = true →
    step s.releaseReset = exec (decode (s.readMem 0x3000#16)) (s.releaseReset.setPc 0x3001#16)

/-- No step drives the `reset` line: it is the host's alone (R6). -/
def Obligations.NoStepDrivesTheResetLine : Prop :=
  ∀ s t : State, step s = .next t → t.resetLine = s.resetLine

/-- When the host may reach the core's state (R6, R50, R146): it reads any slot and any cell in HALTED or while `reset` is
asserted, and neither at any other time; it writes a cell while `reset` is asserted, which changes that cell alone, and
has no such move at any other time (decisions D1, D15, D20 of the spec). -/
def Obligations.HostReachesAStoppedOrResetCoreAlone : Prop :=
  ∀ s : State,
    (s.run = .halted ∨ s.resetLine = true →
      (∀ k : Slot, s.inspectSlot k = some (s.readSlot k)) ∧ ∀ a : Word, s.inspectCell a = some (s.readMem a)) ∧
    (¬ (s.run = .halted ∨ s.resetLine = true) →
      (∀ k : Slot, s.inspectSlot k = none) ∧ ∀ a : Word, s.inspectCell a = none) ∧
    (s.resetLine = true → ∀ a v : Word, ∃ t : State, s.hostWrite a v = some t ∧ StoresOnly a v s t) ∧
    (s.resetLine = false → ∀ a v : Word, s.hostWrite a v = none)

/-- Boot (R144, R138): if every image loads, the core starts, with the reset values and the loaded memory, at `0x3000`; if
one fails to load, no core is started, and a load is no move unless `reset` is asserted. -/
def Obligations.BootStartsOnlyALoadedCore : Prop :=
  (∀ (s : State) (images : List (List Byte)) (m : Memory), loadImages s.mem images = some m →
    ∃ t : State, s.boot images = some t ∧ t.resetLine = false ∧ t.atReset = true ∧ t.mem = m ∧ SameConsole s t ∧
      step t = exec (decode (m.lookup 0x3000)) (t.setPc 0x3001#16)) ∧
  (∀ (s : State) (images : List (List Byte)), loadImages s.mem images = none → s.boot images = none) ∧
  ∀ (s : State) (images : List (List Byte)), s.resetLine = false → s.load images = none

/-- Whatever the host does keeps a state legal: asserting and releasing `reset`, writing a cell, loading images, booting,
supplying characters. The canonical form of memory in it is the model's choice, log entry 1. -/
def Obligations.HostMovesKeepTheStateLegal : Prop :=
  ∀ s : State, s.legal = true →
    s.assertReset.legal = true ∧ s.releaseReset.legal = true ∧ (∀ cs : List Byte, (s.supply cs).legal = true) ∧
    (∀ (a v : Word) (t : State), s.hostWrite a v = some t → t.legal = true) ∧
    ∀ (images : List (List Byte)) (t : State), s.load images = some t ∨ s.boot images = some t → t.legal = true
end

