-- ==== Sys2Proof/Laws/State.lean ====
section
/-! SUPPORT. Beside State: one lemma per field per update, so that no proof unfolds a record update. -/

namespace Sys2Proof.Machine

variable (s : State)

@[simp] theorem State.writeReg_gpr (r : Reg) (v : Word) : (s.writeReg r v).gpr = s.gpr.set r v := rfl
@[simp] theorem State.writeReg_pc (r : Reg) (v : Word) : (s.writeReg r v).pc = s.pc := rfl
@[simp] theorem State.writeReg_cond (r : Reg) (v : Word) : (s.writeReg r v).cond = s.cond := rfl
@[simp] theorem State.writeReg_run (r : Reg) (v : Word) : (s.writeReg r v).run = s.run := rfl
@[simp] theorem State.writeReg_stopCause (r : Reg) (v : Word) : (s.writeReg r v).stopCause = s.stopCause := rfl
@[simp] theorem State.writeReg_hold (r : Reg) (v : Word) : (s.writeReg r v).hold = s.hold := rfl
@[simp] theorem State.writeReg_resetLine (r : Reg) (v : Word) : (s.writeReg r v).resetLine = s.resetLine := rfl
@[simp] theorem State.writeReg_mem (r : Reg) (v : Word) : (s.writeReg r v).mem = s.mem := rfl
@[simp] theorem State.writeReg_consoleIn (r : Reg) (v : Word) : (s.writeReg r v).consoleIn = s.consoleIn := rfl
@[simp] theorem State.writeReg_consoleOut (r : Reg) (v : Word) : (s.writeReg r v).consoleOut = s.consoleOut := rfl
@[simp] theorem State.writeReg_notices (r : Reg) (v : Word) : (s.writeReg r v).notices = s.notices := rfl

@[simp] theorem State.setPc_gpr (v : Word) : (s.setPc v).gpr = s.gpr := rfl
@[simp] theorem State.setPc_pc (v : Word) : (s.setPc v).pc = v := rfl
@[simp] theorem State.setPc_cond (v : Word) : (s.setPc v).cond = s.cond := rfl
@[simp] theorem State.setPc_run (v : Word) : (s.setPc v).run = s.run := rfl
@[simp] theorem State.setPc_stopCause (v : Word) : (s.setPc v).stopCause = s.stopCause := rfl
@[simp] theorem State.setPc_hold (v : Word) : (s.setPc v).hold = s.hold := rfl
@[simp] theorem State.setPc_resetLine (v : Word) : (s.setPc v).resetLine = s.resetLine := rfl
@[simp] theorem State.setPc_mem (v : Word) : (s.setPc v).mem = s.mem := rfl
@[simp] theorem State.setPc_consoleIn (v : Word) : (s.setPc v).consoleIn = s.consoleIn := rfl
@[simp] theorem State.setPc_consoleOut (v : Word) : (s.setPc v).consoleOut = s.consoleOut := rfl
@[simp] theorem State.setPc_notices (v : Word) : (s.setPc v).notices = s.notices := rfl

@[simp] theorem State.setCond_gpr (v : Word) : (s.setCond v).gpr = s.gpr := rfl
@[simp] theorem State.setCond_pc (v : Word) : (s.setCond v).pc = s.pc := rfl
@[simp] theorem State.setCond_cond (v : Word) : (s.setCond v).cond = v := rfl
@[simp] theorem State.setCond_run (v : Word) : (s.setCond v).run = s.run := rfl
@[simp] theorem State.setCond_stopCause (v : Word) : (s.setCond v).stopCause = s.stopCause := rfl
@[simp] theorem State.setCond_hold (v : Word) : (s.setCond v).hold = s.hold := rfl
@[simp] theorem State.setCond_resetLine (v : Word) : (s.setCond v).resetLine = s.resetLine := rfl
@[simp] theorem State.setCond_mem (v : Word) : (s.setCond v).mem = s.mem := rfl
@[simp] theorem State.setCond_consoleIn (v : Word) : (s.setCond v).consoleIn = s.consoleIn := rfl
@[simp] theorem State.setCond_consoleOut (v : Word) : (s.setCond v).consoleOut = s.consoleOut := rfl
@[simp] theorem State.setCond_notices (v : Word) : (s.setCond v).notices = s.notices := rfl

@[simp] theorem State.writeMem_gpr (a v : Word) : (s.writeMem a v).gpr = s.gpr := rfl
@[simp] theorem State.writeMem_pc (a v : Word) : (s.writeMem a v).pc = s.pc := rfl
@[simp] theorem State.writeMem_cond (a v : Word) : (s.writeMem a v).cond = s.cond := rfl
@[simp] theorem State.writeMem_run (a v : Word) : (s.writeMem a v).run = s.run := rfl
@[simp] theorem State.writeMem_stopCause (a v : Word) : (s.writeMem a v).stopCause = s.stopCause := rfl
@[simp] theorem State.writeMem_hold (a v : Word) : (s.writeMem a v).hold = s.hold := rfl
@[simp] theorem State.writeMem_resetLine (a v : Word) : (s.writeMem a v).resetLine = s.resetLine := rfl
@[simp] theorem State.writeMem_mem (a v : Word) : (s.writeMem a v).mem = s.mem.store a.toNat v := rfl
@[simp] theorem State.writeMem_consoleIn (a v : Word) : (s.writeMem a v).consoleIn = s.consoleIn := rfl
@[simp] theorem State.writeMem_consoleOut (a v : Word) : (s.writeMem a v).consoleOut = s.consoleOut := rfl
@[simp] theorem State.writeMem_notices (a v : Word) : (s.writeMem a v).notices = s.notices := rfl

@[simp] theorem State.stop_gpr (k : StopCause) : (s.stop k).gpr = s.gpr := rfl
@[simp] theorem State.stop_pc (k : StopCause) : (s.stop k).pc = s.pc := rfl
@[simp] theorem State.stop_cond (k : StopCause) : (s.stop k).cond = s.cond := rfl
@[simp] theorem State.stop_run (k : StopCause) : (s.stop k).run = .halted := rfl
@[simp] theorem State.stop_stopCause (k : StopCause) : (s.stop k).stopCause = k := rfl
@[simp] theorem State.stop_hold (k : StopCause) : (s.stop k).hold = s.hold := rfl
@[simp] theorem State.stop_resetLine (k : StopCause) : (s.stop k).resetLine = s.resetLine := rfl
@[simp] theorem State.stop_mem (k : StopCause) : (s.stop k).mem = s.mem := rfl
@[simp] theorem State.stop_consoleIn (k : StopCause) : (s.stop k).consoleIn = s.consoleIn := rfl
@[simp] theorem State.stop_consoleOut (k : StopCause) : (s.stop k).consoleOut = s.consoleOut := rfl
@[simp] theorem State.stop_notices (k : StopCause) : (s.stop k).notices = s.notices := rfl

@[simp] theorem State.consolePut_gpr (c : Byte) : (s.consolePut c).gpr = s.gpr := rfl
@[simp] theorem State.consolePut_pc (c : Byte) : (s.consolePut c).pc = s.pc := rfl
@[simp] theorem State.consolePut_cond (c : Byte) : (s.consolePut c).cond = s.cond := rfl
@[simp] theorem State.consolePut_run (c : Byte) : (s.consolePut c).run = s.run := rfl
@[simp] theorem State.consolePut_stopCause (c : Byte) : (s.consolePut c).stopCause = s.stopCause := rfl
@[simp] theorem State.consolePut_hold (c : Byte) : (s.consolePut c).hold = s.hold := rfl
@[simp] theorem State.consolePut_resetLine (c : Byte) : (s.consolePut c).resetLine = s.resetLine := rfl
@[simp] theorem State.consolePut_mem (c : Byte) : (s.consolePut c).mem = s.mem := rfl
@[simp] theorem State.consolePut_consoleIn (c : Byte) : (s.consolePut c).consoleIn = s.consoleIn := rfl
@[simp] theorem State.consolePut_consoleOut (c : Byte) : (s.consolePut c).consoleOut = s.consoleOut ++ [c] := rfl
@[simp] theorem State.consolePut_notices (c : Byte) : (s.consolePut c).notices = s.notices := rfl

@[simp] theorem State.consolePutAll_gpr (cs : List Byte) : (s.consolePutAll cs).gpr = s.gpr := rfl
@[simp] theorem State.consolePutAll_pc (cs : List Byte) : (s.consolePutAll cs).pc = s.pc := rfl
@[simp] theorem State.consolePutAll_cond (cs : List Byte) : (s.consolePutAll cs).cond = s.cond := rfl
@[simp] theorem State.consolePutAll_run (cs : List Byte) : (s.consolePutAll cs).run = s.run := rfl
@[simp] theorem State.consolePutAll_stopCause (cs : List Byte) : (s.consolePutAll cs).stopCause = s.stopCause := rfl
@[simp] theorem State.consolePutAll_hold (cs : List Byte) : (s.consolePutAll cs).hold = s.hold := rfl
@[simp] theorem State.consolePutAll_resetLine (cs : List Byte) : (s.consolePutAll cs).resetLine = s.resetLine := rfl
@[simp] theorem State.consolePutAll_mem (cs : List Byte) : (s.consolePutAll cs).mem = s.mem := rfl
@[simp] theorem State.consolePutAll_consoleIn (cs : List Byte) : (s.consolePutAll cs).consoleIn = s.consoleIn := rfl
@[simp] theorem State.consolePutAll_consoleOut (cs : List Byte) : (s.consolePutAll cs).consoleOut = s.consoleOut ++ cs := rfl
@[simp] theorem State.consolePutAll_notices (cs : List Byte) : (s.consolePutAll cs).notices = s.notices := rfl

@[simp] theorem State.setConsoleIn_gpr (cs : List Byte) : (s.setConsoleIn cs).gpr = s.gpr := rfl
@[simp] theorem State.setConsoleIn_pc (cs : List Byte) : (s.setConsoleIn cs).pc = s.pc := rfl
@[simp] theorem State.setConsoleIn_cond (cs : List Byte) : (s.setConsoleIn cs).cond = s.cond := rfl
@[simp] theorem State.setConsoleIn_run (cs : List Byte) : (s.setConsoleIn cs).run = s.run := rfl
@[simp] theorem State.setConsoleIn_stopCause (cs : List Byte) : (s.setConsoleIn cs).stopCause = s.stopCause := rfl
@[simp] theorem State.setConsoleIn_hold (cs : List Byte) : (s.setConsoleIn cs).hold = s.hold := rfl
@[simp] theorem State.setConsoleIn_resetLine (cs : List Byte) : (s.setConsoleIn cs).resetLine = s.resetLine := rfl
@[simp] theorem State.setConsoleIn_mem (cs : List Byte) : (s.setConsoleIn cs).mem = s.mem := rfl
@[simp] theorem State.setConsoleIn_consoleIn (cs : List Byte) : (s.setConsoleIn cs).consoleIn = cs := rfl
@[simp] theorem State.setConsoleIn_consoleOut (cs : List Byte) : (s.setConsoleIn cs).consoleOut = s.consoleOut := rfl
@[simp] theorem State.setConsoleIn_notices (cs : List Byte) : (s.setConsoleIn cs).notices = s.notices := rfl

@[simp] theorem State.consoleNotice_gpr (k : Notice) : (s.consoleNotice k).gpr = s.gpr := rfl
@[simp] theorem State.consoleNotice_pc (k : Notice) : (s.consoleNotice k).pc = s.pc := rfl
@[simp] theorem State.consoleNotice_cond (k : Notice) : (s.consoleNotice k).cond = s.cond := rfl
@[simp] theorem State.consoleNotice_run (k : Notice) : (s.consoleNotice k).run = s.run := rfl
@[simp] theorem State.consoleNotice_stopCause (k : Notice) : (s.consoleNotice k).stopCause = s.stopCause := rfl
@[simp] theorem State.consoleNotice_hold (k : Notice) : (s.consoleNotice k).hold = s.hold := rfl
@[simp] theorem State.consoleNotice_resetLine (k : Notice) : (s.consoleNotice k).resetLine = s.resetLine := rfl
@[simp] theorem State.consoleNotice_mem (k : Notice) : (s.consoleNotice k).mem = s.mem := rfl
@[simp] theorem State.consoleNotice_consoleIn (k : Notice) : (s.consoleNotice k).consoleIn = s.consoleIn := rfl
@[simp] theorem State.consoleNotice_consoleOut (k : Notice) : (s.consoleNotice k).consoleOut = s.consoleOut := rfl
@[simp] theorem State.consoleNotice_notices (k : Notice) : (s.consoleNotice k).notices = s.notices ++ [k] := rfl

@[simp] theorem State.setHold_gpr (h : Hold) : (s.setHold h).gpr = s.gpr := rfl
@[simp] theorem State.setHold_pc (h : Hold) : (s.setHold h).pc = s.pc := rfl
@[simp] theorem State.setHold_cond (h : Hold) : (s.setHold h).cond = s.cond := rfl
@[simp] theorem State.setHold_run (h : Hold) : (s.setHold h).run = s.run := rfl
@[simp] theorem State.setHold_stopCause (h : Hold) : (s.setHold h).stopCause = s.stopCause := rfl
@[simp] theorem State.setHold_hold (h : Hold) : (s.setHold h).hold = h := rfl
@[simp] theorem State.setHold_resetLine (h : Hold) : (s.setHold h).resetLine = s.resetLine := rfl
@[simp] theorem State.setHold_mem (h : Hold) : (s.setHold h).mem = s.mem := rfl
@[simp] theorem State.setHold_consoleIn (h : Hold) : (s.setHold h).consoleIn = s.consoleIn := rfl
@[simp] theorem State.setHold_consoleOut (h : Hold) : (s.setHold h).consoleOut = s.consoleOut := rfl
@[simp] theorem State.setHold_notices (h : Hold) : (s.setHold h).notices = s.notices := rfl

@[simp] theorem State.supply_gpr (cs : List Byte) : (s.supply cs).gpr = s.gpr := rfl
@[simp] theorem State.supply_pc (cs : List Byte) : (s.supply cs).pc = s.pc := rfl
@[simp] theorem State.supply_cond (cs : List Byte) : (s.supply cs).cond = s.cond := rfl
@[simp] theorem State.supply_run (cs : List Byte) : (s.supply cs).run = s.run := rfl
@[simp] theorem State.supply_stopCause (cs : List Byte) : (s.supply cs).stopCause = s.stopCause := rfl
@[simp] theorem State.supply_hold (cs : List Byte) : (s.supply cs).hold = s.hold := rfl
@[simp] theorem State.supply_resetLine (cs : List Byte) : (s.supply cs).resetLine = s.resetLine := rfl
@[simp] theorem State.supply_mem (cs : List Byte) : (s.supply cs).mem = s.mem := rfl
@[simp] theorem State.supply_consoleIn (cs : List Byte) : (s.supply cs).consoleIn = s.consoleIn ++ cs := rfl
@[simp] theorem State.supply_consoleOut (cs : List Byte) : (s.supply cs).consoleOut = s.consoleOut := rfl
@[simp] theorem State.supply_notices (cs : List Byte) : (s.supply cs).notices = s.notices := rfl

@[simp] theorem State.advance_gpr : s.advance.gpr = s.gpr := rfl
@[simp] theorem State.advance_pc : s.advance.pc = s.pc + 1 := rfl
@[simp] theorem State.advance_cond : s.advance.cond = s.cond := rfl
@[simp] theorem State.advance_run : s.advance.run = s.run := rfl
@[simp] theorem State.advance_stopCause : s.advance.stopCause = s.stopCause := rfl
@[simp] theorem State.advance_hold : s.advance.hold = s.hold := rfl
@[simp] theorem State.advance_resetLine : s.advance.resetLine = s.resetLine := rfl
@[simp] theorem State.advance_mem : s.advance.mem = s.mem := rfl
@[simp] theorem State.advance_consoleIn : s.advance.consoleIn = s.consoleIn := rfl
@[simp] theorem State.advance_consoleOut : s.advance.consoleOut = s.consoleOut := rfl
@[simp] theorem State.advance_notices : s.advance.notices = s.notices := rfl

@[simp] theorem State.link_gpr : s.link.gpr = s.gpr.set .r7 s.pc := rfl
@[simp] theorem State.link_pc : s.link.pc = s.pc := rfl
@[simp] theorem State.link_cond : s.link.cond = s.cond := rfl
@[simp] theorem State.link_run : s.link.run = s.run := rfl
@[simp] theorem State.link_stopCause : s.link.stopCause = s.stopCause := rfl
@[simp] theorem State.link_hold : s.link.hold = s.hold := rfl
@[simp] theorem State.link_resetLine : s.link.resetLine = s.resetLine := rfl
@[simp] theorem State.link_mem : s.link.mem = s.mem := rfl
@[simp] theorem State.link_consoleIn : s.link.consoleIn = s.consoleIn := rfl
@[simp] theorem State.link_consoleOut : s.link.consoleOut = s.consoleOut := rfl
@[simp] theorem State.link_notices : s.link.notices = s.notices := rfl

@[simp] theorem State.assertReset_gpr : s.assertReset.gpr = State.reset.gpr := rfl
@[simp] theorem State.assertReset_pc : s.assertReset.pc = State.reset.pc := rfl
@[simp] theorem State.assertReset_cond : s.assertReset.cond = State.reset.cond := rfl
@[simp] theorem State.assertReset_run : s.assertReset.run = State.reset.run := rfl
@[simp] theorem State.assertReset_stopCause : s.assertReset.stopCause = State.reset.stopCause := rfl
@[simp] theorem State.assertReset_hold : s.assertReset.hold = State.reset.hold := rfl
@[simp] theorem State.assertReset_resetLine : s.assertReset.resetLine = true := rfl
@[simp] theorem State.assertReset_mem : s.assertReset.mem = s.mem := rfl
@[simp] theorem State.assertReset_consoleIn : s.assertReset.consoleIn = s.consoleIn := rfl
@[simp] theorem State.assertReset_consoleOut : s.assertReset.consoleOut = s.consoleOut := rfl
@[simp] theorem State.assertReset_notices : s.assertReset.notices = s.notices := rfl

@[simp] theorem State.applyReset_gpr : s.applyReset.gpr = State.reset.gpr := rfl
@[simp] theorem State.applyReset_pc : s.applyReset.pc = State.reset.pc := rfl
@[simp] theorem State.applyReset_cond : s.applyReset.cond = State.reset.cond := rfl
@[simp] theorem State.applyReset_run : s.applyReset.run = State.reset.run := rfl
@[simp] theorem State.applyReset_stopCause : s.applyReset.stopCause = State.reset.stopCause := rfl
@[simp] theorem State.applyReset_hold : s.applyReset.hold = State.reset.hold := rfl
@[simp] theorem State.applyReset_resetLine : s.applyReset.resetLine = false := rfl
@[simp] theorem State.applyReset_mem : s.applyReset.mem = s.mem := rfl
@[simp] theorem State.applyReset_consoleIn : s.applyReset.consoleIn = s.consoleIn := rfl
@[simp] theorem State.applyReset_consoleOut : s.applyReset.consoleOut = s.consoleOut := rfl
@[simp] theorem State.applyReset_notices : s.applyReset.notices = s.notices := rfl

@[simp] theorem State.releaseReset_gpr : s.releaseReset.gpr = s.gpr := rfl
@[simp] theorem State.releaseReset_pc : s.releaseReset.pc = s.pc := rfl
@[simp] theorem State.releaseReset_cond : s.releaseReset.cond = s.cond := rfl
@[simp] theorem State.releaseReset_run : s.releaseReset.run = s.run := rfl
@[simp] theorem State.releaseReset_stopCause : s.releaseReset.stopCause = s.stopCause := rfl
@[simp] theorem State.releaseReset_hold : s.releaseReset.hold = s.hold := rfl
@[simp] theorem State.releaseReset_resetLine : s.releaseReset.resetLine = false := rfl
@[simp] theorem State.releaseReset_mem : s.releaseReset.mem = s.mem := rfl
@[simp] theorem State.releaseReset_consoleIn : s.releaseReset.consoleIn = s.consoleIn := rfl
@[simp] theorem State.releaseReset_consoleOut : s.releaseReset.consoleOut = s.consoleOut := rfl
@[simp] theorem State.releaseReset_notices : s.releaseReset.notices = s.notices := rfl

@[simp] theorem State.placeWord_gpr (w : Word) : (s.placeWord w).gpr = s.gpr := rfl
@[simp] theorem State.placeWord_pc (w : Word) : (s.placeWord w).pc = s.pc := rfl
@[simp] theorem State.placeWord_cond (w : Word) : (s.placeWord w).cond = s.cond := rfl
@[simp] theorem State.placeWord_run (w : Word) : (s.placeWord w).run = .running := rfl
@[simp] theorem State.placeWord_stopCause (w : Word) : (s.placeWord w).stopCause = .none := rfl
@[simp] theorem State.placeWord_hold (w : Word) : (s.placeWord w).hold = .idle := rfl
@[simp] theorem State.placeWord_resetLine (w : Word) : (s.placeWord w).resetLine = false := rfl
@[simp] theorem State.placeWord_mem (w : Word) : (s.placeWord w).mem = s.mem.store s.pc.toNat w := rfl
@[simp] theorem State.placeWord_consoleIn (w : Word) : (s.placeWord w).consoleIn = s.consoleIn := rfl
@[simp] theorem State.placeWord_consoleOut (w : Word) : (s.placeWord w).consoleOut = s.consoleOut := rfl
@[simp] theorem State.placeWord_notices (w : Word) : (s.placeWord w).notices = s.notices := rfl

end Sys2Proof.Machine
end

