-- ==== Sys2Proof/Laws/Memory.lean ====
section
/-! SUPPORT. Registers and memory: a read after a write, and that every memory operation keeps the canonical form. -/

namespace Sys2Proof.Machine

/-! ## Registers -/

@[simp] theorem Gpr.get_set_same (g : Gpr) (r : Reg) (v : Word) : (g.set r v).get r = v := by
  cases r <;> rfl

theorem Gpr.get_set_ne (g : Gpr) {r q : Reg} (v : Word) (h : q ≠ r) : (g.set r v).get q = g.get q := by
  cases r <;> cases q <;> first | rfl | exact absurd rfl h

@[simp] theorem State.readReg_writeReg_same (s : State) (r : Reg) (v : Word) : (s.writeReg r v).readReg r = v :=
  Gpr.get_set_same _ _ _

theorem State.readReg_writeReg_ne (s : State) {r q : Reg} (v : Word) (h : q ≠ r) :
    (s.writeReg r v).readReg q = s.readReg q :=
  Gpr.get_set_ne _ _ h

/-- A register read looks at the register file alone. -/
theorem State.readReg_congr {s t : State} (h : t.gpr = s.gpr) (r : Reg) : t.readReg r = s.readReg r := by
  unfold State.readReg; rw [h]

/-- A memory read looks at memory alone. -/
theorem State.readMem_congr {s t : State} (h : t.mem = s.mem) (a : Word) : t.readMem a = s.readMem a := by
  unfold State.readMem; rw [h]

/-! ## Reads of memory -/

theorem Memory.lookup_erase_same (m : Memory) (a : Nat) : (m.erase a).lookup a = Memory.unlisted := by
  induction m with
  | nil => rfl
  | cons e m ih =>
    obtain ⟨k, v⟩ := e
    by_cases h : k = a <;> simp [Memory.erase, Memory.lookup, h, ih]

theorem Memory.lookup_erase_ne (m : Memory) {a b : Nat} (h : b ≠ a) : (m.erase a).lookup b = m.lookup b := by
  induction m with
  | nil => rfl
  | cons e m ih =>
    obtain ⟨k, v⟩ := e
    by_cases hk : k = a
    · subst hk; simp [Memory.erase, Memory.lookup, ih, Ne.symm h]
    · simp [Memory.erase, Memory.lookup, hk, ih]

theorem Memory.lookup_insert_same (m : Memory) (a : Nat) (v : Word) : (m.insert a v).lookup a = v := by
  induction m with
  | nil => simp [Memory.insert, Memory.lookup]
  | cons e m ih =>
    obtain ⟨k, w⟩ := e
    unfold Memory.insert
    split
    · simp [Memory.lookup]
    · split
      · simp [Memory.lookup]
      · next h => simp [Memory.lookup, ih, Ne.symm h]

theorem Memory.lookup_insert_ne (m : Memory) {a b : Nat} (v : Word) (h : b ≠ a) :
    (m.insert a v).lookup b = m.lookup b := by
  induction m with
  | nil => simp [Memory.insert, Memory.lookup, Ne.symm h]
  | cons e m ih =>
    obtain ⟨k, w⟩ := e
    unfold Memory.insert
    split
    · simp [Memory.lookup, Ne.symm h]
    · split
      · next hk => subst hk; simp [Memory.lookup, Ne.symm h]
      · simp [Memory.lookup, ih]

@[simp] theorem Memory.lookup_store_same (m : Memory) (a : Nat) (v : Word) : (m.store a v).lookup a = v := by
  unfold Memory.store
  split
  · next h => rw [h, Memory.lookup_erase_same]
  · exact Memory.lookup_insert_same m a v

theorem Memory.lookup_store_ne (m : Memory) {a b : Nat} (v : Word) (h : b ≠ a) :
    (m.store a v).lookup b = m.lookup b := by
  unfold Memory.store
  split
  · exact Memory.lookup_erase_ne m h
  · exact Memory.lookup_insert_ne m v h

@[simp] theorem State.readMem_writeMem_same (s : State) (a v : Word) : (s.writeMem a v).readMem a = v :=
  Memory.lookup_store_same _ _ _

theorem State.readMem_writeMem_ne (s : State) {a b : Word} (v : Word) (h : b ≠ a) :
    (s.writeMem a v).readMem b = s.readMem b :=
  Memory.lookup_store_ne _ _ fun e => h (BitVec.eq_of_toNat_eq e)

/-! ## The canonical form -/

/-- A lower bound may be lowered. -/
theorem Memory.wfFrom_mono {m : Memory} {lo hi : Nat} (hle : lo ≤ hi) (h : Memory.wfFrom hi m = true) :
    Memory.wfFrom lo m = true := by
  cases m with
  | nil => rfl
  | cons e m =>
    obtain ⟨k, v⟩ := e
    simp only [Memory.wfFrom, Bool.and_eq_true, decide_eq_true_eq] at h ⊢
    exact ⟨⟨⟨hle.trans h.1.1.1, h.1.1.2⟩, h.1.2⟩, h.2⟩

theorem Memory.wfFrom_erase {m : Memory} {lo : Nat} (a : Nat) (h : Memory.wfFrom lo m = true) :
    Memory.wfFrom lo (m.erase a) = true := by
  induction m generalizing lo with
  | nil => rfl
  | cons e m ih =>
    obtain ⟨k, v⟩ := e
    simp only [Memory.wfFrom, Bool.and_eq_true, decide_eq_true_eq] at h
    unfold Memory.erase
    split
    · exact ih (Memory.wfFrom_mono (by omega) h.2)
    · simp only [Memory.wfFrom, Bool.and_eq_true, decide_eq_true_eq]
      exact ⟨h.1, ih h.2⟩

theorem Memory.wfFrom_insert {m : Memory} {lo a : Nat} {v : Word} (hlo : lo ≤ a) (ha : a < 65536)
    (hv : v ≠ Memory.unlisted) (h : Memory.wfFrom lo m = true) : Memory.wfFrom lo (m.insert a v) = true := by
  induction m generalizing lo with
  | nil => simp [Memory.insert, Memory.wfFrom, hlo, ha, hv]
  | cons e m ih =>
    obtain ⟨k, w⟩ := e
    simp only [Memory.wfFrom, Bool.and_eq_true, decide_eq_true_eq, bne_iff_ne] at h
    unfold Memory.insert
    split
    · next hk =>
      simp only [Memory.wfFrom, Bool.and_eq_true, decide_eq_true_eq, bne_iff_ne]
      exact ⟨⟨⟨hlo, ha⟩, hv⟩, ⟨⟨hk, h.1.1.2⟩, h.1.2⟩, h.2⟩
    · split
      · next hk =>
        subst hk
        simp only [Memory.wfFrom, Bool.and_eq_true, decide_eq_true_eq, bne_iff_ne]
        exact ⟨⟨⟨hlo, ha⟩, hv⟩, h.2⟩
      · next hlt hne =>
        simp only [Memory.wfFrom, Bool.and_eq_true, decide_eq_true_eq, bne_iff_ne]
        exact ⟨h.1, ih (by omega) h.2⟩

/-- Storing keeps the canonical form, for every address of the 16-bit space. -/
theorem Memory.wf_store {m : Memory} {a : Nat} (v : Word) (ha : a < 65536) (h : m.wf = true) :
    (m.store a v).wf = true := by
  unfold Memory.store
  split
  · exact Memory.wfFrom_erase a h
  · next hv => exact Memory.wfFrom_insert (Nat.zero_le a) ha hv h

/-- `MemWrite` keeps the canonical form. -/
theorem State.wf_writeMem {s : State} (a v : Word) (h : s.mem.wf = true) : (s.writeMem a v).mem.wf = true :=
  Memory.wf_store v a.isLt h

/-- The memory at reset is canonical. -/
theorem State.reset_mem_wf : State.reset.mem.wf = true := rfl

/-- Words stored from an address on keep the canonical form. -/
theorem storeWords_wf {m m' : Memory} {a : Nat} {ws : List Word} (h : m.wf = true)
    (hm : storeWords m a ws = some m') : m'.wf = true := by
  induction ws generalizing m a with
  | nil => cases hm; exact h
  | cons w ws ih =>
    unfold storeWords at hm
    split at hm
    · next ha => exact ih (Memory.wf_store w ha h) hm
    · cases hm

/-- Loading an image keeps the canonical form. -/
theorem loadImage_wf {m m' : Memory} {image : List Byte} (h : m.wf = true) (hm : loadImage m image = some m') :
    m'.wf = true := by
  unfold loadImage at hm
  split at hm
  · split at hm
    · exact storeWords_wf h hm
    · cases hm
  · cases hm

/-- Loading images one after the other keeps the canonical form. -/
theorem loadImages_wf {m m' : Memory} {images : List (List Byte)} (h : m.wf = true)
    (hm : loadImages m images = some m') : m'.wf = true := by
  induction images generalizing m with
  | nil => cases hm; exact h
  | cons image images ih =>
    unfold loadImages at hm
    split at hm
    · next m1 h1 => exact ih (loadImage_wf h h1) hm
    · cases hm

end Sys2Proof.Machine
end

