-- ==== Sys2Proof/Laws/Ops.lean ====
section
/-! SUPPORT. For each shared operation, once, everything it can do; the proofs cite these and unfold nothing. -/

namespace Sys2Proof.Machine

/-! ## Flags -/

theorem condOf_eq (v : Word) :
    condOf v = if v.getLsbD 15 then condNeg else if v = 0x0000#16 then condZro else condPos := by
  simp [condOf, BitVec.msb_eq_getLsbD_last]

theorem condOf_legal (v : Word) : condLegal (condOf v) = true := by
  unfold condOf
  split
  · decide
  · split <;> decide

/-- The flag of a zero-extended character: ZRO or POS, never NEG (R111, R114). -/
theorem condOf_zext8 (c : Byte) : condOf (zext8 c) = if c = 0x00#8 then condZro else condPos := by
  have h0 : zext8 c = 0x0000#16 ↔ c = 0x00#8 := by
    constructor
    · intro h
      have := congrArg BitVec.toNat h
      simp only [zext8, BitVec.toNat_setWidth, BitVec.toNat_ofNat] at this
      exact BitVec.eq_of_toNat_eq (by have := c.isLt; simp; omega)
    · rintro rfl; rfl
  have h15 : (zext8 c).getLsbD 15 = false := by simp [zext8]
  rw [condOf_eq, h15]
  simp [h0]

/-! ## `define`: the write of a destination register with its flags -/

section define

variable (s : State) (dr : Reg) (v : Word)

@[simp] theorem State.define_readReg_same : (s.define dr v).readReg dr = v :=
  State.readReg_writeReg_same s dr v

theorem State.define_readReg_ne {q : Reg} (h : q ≠ dr) : (s.define dr v).readReg q = s.readReg q :=
  State.readReg_writeReg_ne s v h

@[simp] theorem State.define_cond : (s.define dr v).cond = condOf v := by
  simp [State.define, State.setcc]

@[simp] theorem State.define_pc : (s.define dr v).pc = s.pc := rfl
@[simp] theorem State.define_run : (s.define dr v).run = s.run := rfl
@[simp] theorem State.define_stopCause : (s.define dr v).stopCause = s.stopCause := rfl
@[simp] theorem State.define_hold : (s.define dr v).hold = s.hold := rfl
@[simp] theorem State.define_resetLine : (s.define dr v).resetLine = s.resetLine := rfl
@[simp] theorem State.define_mem : (s.define dr v).mem = s.mem := rfl
@[simp] theorem State.define_consoleIn : (s.define dr v).consoleIn = s.consoleIn := rfl
@[simp] theorem State.define_consoleOut : (s.define dr v).consoleOut = s.consoleOut := rfl
@[simp] theorem State.define_notices : (s.define dr v).notices = s.notices := rfl

/-- Everything `define` does. -/
theorem State.define_definesOnly : DefinesOnly dr v s (s.define dr v) :=
  ⟨s.define_readReg_same dr v, (s.define_cond dr v).trans (condOf_eq v),
    fun _ h => s.define_readReg_ne dr v h, rfl, fun _ => rfl, ⟨rfl, rfl, rfl, rfl⟩, ⟨rfl, rfl, rfl⟩⟩

end define

/-! ## Stores -/

/-- Everything a store does. -/
theorem State.writeMem_storesOnly (s : State) (a v : Word) : StoresOnly a v s (s.writeMem a v) :=
  ⟨s.readMem_writeMem_same a v, fun _ h => s.readMem_writeMem_ne v h, fun _ => rfl, rfl, rfl,
    ⟨rfl, rfl, rfl, rfl⟩, ⟨rfl, rfl, rfl⟩⟩

/-! ## The routines of TRAP -/

/-- Everything GETC's routine does: it waits, or it takes a character. -/
theorem getcRoutine_cases (s : State) :
    (s.consoleIn = [] ∧ getcRoutine s = s.setHold .getc) ∨
    (∃ c rest, s.consoleIn = c :: rest ∧
      getcRoutine s = ((s.setConsoleIn rest).setHold .idle).define .r0 (zext8 c)) := by
  unfold getcRoutine
  split
  · next h => exact .inl ⟨h, rfl⟩
  · next c rest h => exact .inr ⟨c, rest, h, rfl⟩

/-- Everything IN's routine does: it waits, or it takes a character and echoes it. -/
theorem inRoutine_cases (s : State) :
    (s.consoleIn = [] ∧ inRoutine s = s.setHold .inEcho) ∨
    (∃ c rest, s.consoleIn = c :: rest ∧
      inRoutine s = (((s.setConsoleIn rest).setHold .idle).consolePut c).define .r0 (zext8 c)) := by
  unfold inRoutine
  split
  · next h => exact .inl ⟨h, rfl⟩
  · next c rest h => exact .inr ⟨c, rest, h, rfl⟩

/-- Everything PUTS's routine does: it sends the string, or it stays inside a string that never ends. -/
theorem putsRoutine_cases (s : State) :
    (∃ cs, s.putsString = some cs ∧ putsRoutine s = s.consolePutAll cs) ∨
    (s.putsString = none ∧ putsRoutine s = s.setHold (.puts (s.readReg .r0))) := by
  unfold putsRoutine
  split
  · next cs h => exact .inl ⟨cs, h, rfl⟩
  · next h => exact .inr ⟨h, rfl⟩

/-- Everything WRITELINE's routine does. -/
theorem writeLineRoutine_cases (s : State) :
    (∃ cs, s.writeLineSeq = .finite cs ∧ writeLineRoutine s = (s.consolePutAll cs).setHold s.hold) ∨
    (∃ c, s.writeLineSeq = .endless c ∧ writeLineRoutine s = (s.consolePutAll []).setHold (.writeLine 0)) := by
  unfold writeLineRoutine
  cases h : s.writeLineSeq with
  | finite cs => exact .inl ⟨cs, rfl, rfl⟩
  | endless c => exact .inr ⟨c, rfl, rfl⟩

/-- Everything a step of a holding core does. -/
theorem resume_cases (s : State) :
    (s.hold = .idle ∧ resume s = s) ∨
    (s.hold = .getc ∧ resume s = getcRoutine s) ∨
    (s.hold = .inEcho ∧ resume s = inRoutine s) ∨
    (∃ a, s.hold = .puts a ∧ resume s = putsResume a s) ∨
    (∃ k, s.hold = .writeLine k ∧ resume s = writeLineResume k s) := by
  unfold resume
  cases h : s.hold <;> simp

/-! ## Reset, and what the host does under it -/

@[simp] theorem State.assertReset_readReg (s : State) (r : Reg) : s.assertReset.readReg r = 0x0000#16 := by
  cases r <;> rfl

@[simp] theorem State.applyReset_readReg (s : State) (r : Reg) : s.applyReset.readReg r = 0x0000#16 := by
  cases r <;> rfl

theorem State.assertReset_atReset (s : State) : s.assertReset.atReset = true := by
  simp [State.atReset]; decide

theorem State.inspectable_iff (s : State) : s.inspectable = true ↔ s.run = .halted ∨ s.resetLine = true := by
  simp [State.inspectable]

/-- Everything a host write does. -/
theorem State.hostWrite_eq_some {s t : State} {a v : Word} :
    s.hostWrite a v = some t ↔ s.resetLine = true ∧ t = s.writeMem a v := by
  unfold State.hostWrite
  split <;> simp [*, eq_comm]

/-- Everything loading does. -/
theorem State.load_eq_some {s t : State} {images : List (List Byte)} :
    s.load images = some t ↔
      s.resetLine = true ∧ ∃ m, loadImages s.mem images = some m ∧ t = { s with mem := m } := by
  unfold State.load
  split <;> simp [*, eq_comm]

/-- Everything boot does. -/
theorem State.boot_eq_some {s t : State} {images : List (List Byte)} :
    s.boot images = some t ↔ ∃ m, loadImages s.mem images = some m ∧ t = { s.applyReset with mem := m } := by
  simp only [State.boot, Option.map_eq_some_iff, State.load_eq_some]
  constructor
  · rintro ⟨_, ⟨_, m, hm, rfl⟩, rfl⟩; exact ⟨m, hm, rfl⟩
  · rintro ⟨m, hm, rfl⟩; exact ⟨_, ⟨rfl, m, hm, rfl⟩, rfl⟩

end Sys2Proof.Machine
end

