-- ==== Sys2Proof/Laws/PerInstr.lean ====
section
/-! SUPPORT. Statements for all instructions, one lemma per constructor. The family EncodedRow: the word of a
well-formed instruction lies in the instruction's row of the opcode table (`30_encoding.md` R54, R67). -/

namespace Sys2Proof.Laws.EncodedRow

/-- The encoder's word matches the instruction's row. -/
def Statement (i : Instr) : Prop := i.wellFormed = true → i.row.matchesWord (encode i) = true

/-- A word matches a row if it agrees with it bit by bit under the mask. -/
theorem matches_of_bits {r : TableRow} {w : Word}
    (h : ∀ i, i < 16 → (w &&& r.mask).getLsbD i = r.bits.getLsbD i) : r.matchesWord w = true :=
  beq_iff_eq.mpr (BitVec.eq_of_getLsbD_eq h)

theorem br (n z p : Bool) (off9 : BitVec 9) : Statement (.br n z p off9) := by
  intro _
  refine matches_of_bits fun i hi => ?_
  interval_cases i <;> simp [Instr.row, encode, place]

theorem addReg (dr sr1 sr2 : Reg) : Statement (.addReg dr sr1 sr2) := by
  intro _
  refine matches_of_bits fun i hi => ?_
  interval_cases i <;> simp [Instr.row, encode, place, encodeOpr]

theorem addImm (dr sr1 : Reg) (imm5 : BitVec 5) : Statement (.addImm dr sr1 imm5) := by
  intro _
  refine matches_of_bits fun i hi => ?_
  interval_cases i <;> simp [Instr.row, encode, place, encodeOpi]

theorem ld (dr : Reg) (off9 : BitVec 9) : Statement (.ld dr off9) := by
  intro _
  refine matches_of_bits fun i hi => ?_
  interval_cases i <;> simp [Instr.row, encode, place, encodePc9]

theorem st (sr : Reg) (off9 : BitVec 9) : Statement (.st sr off9) := by
  intro _
  refine matches_of_bits fun i hi => ?_
  interval_cases i <;> simp [Instr.row, encode, place, encodePc9]

theorem jsr (off11 : BitVec 11) : Statement (.jsr off11) := by
  intro _
  refine matches_of_bits fun i hi => ?_
  interval_cases i <;> simp [Instr.row, encode, place]

theorem jsrr (baseR : Reg) : Statement (.jsrr baseR) := by cases baseR <;> exact fun _ => rfl

theorem andReg (dr sr1 sr2 : Reg) : Statement (.andReg dr sr1 sr2) := by
  intro _
  refine matches_of_bits fun i hi => ?_
  interval_cases i <;> simp [Instr.row, encode, place, encodeOpr]

theorem andImm (dr sr1 : Reg) (imm5 : BitVec 5) : Statement (.andImm dr sr1 imm5) := by
  intro _
  refine matches_of_bits fun i hi => ?_
  interval_cases i <;> simp [Instr.row, encode, place, encodeOpi]

theorem ldr (dr baseR : Reg) (off6 : BitVec 6) : Statement (.ldr dr baseR off6) := by
  intro _
  refine matches_of_bits fun i hi => ?_
  interval_cases i <;> simp [Instr.row, encode, place, encodeBase6]

theorem str (sr baseR : Reg) (off6 : BitVec 6) : Statement (.str sr baseR off6) := by
  intro _
  refine matches_of_bits fun i hi => ?_
  interval_cases i <;> simp [Instr.row, encode, place, encodeBase6]

theorem rti : Statement .rti := fun _ => rfl

theorem not (dr sr : Reg) : Statement (.not dr sr) := by
  intro _
  refine matches_of_bits fun i hi => ?_
  interval_cases i <;> simp [Instr.row, encode, place]

theorem ldi (dr : Reg) (off9 : BitVec 9) : Statement (.ldi dr off9) := by
  intro _
  refine matches_of_bits fun i hi => ?_
  interval_cases i <;> simp [Instr.row, encode, place, encodePc9]

theorem sti (sr : Reg) (off9 : BitVec 9) : Statement (.sti sr off9) := by
  intro _
  refine matches_of_bits fun i hi => ?_
  interval_cases i <;> simp [Instr.row, encode, place, encodePc9]

theorem jmp (baseR : Reg) : Statement (.jmp baseR) := by cases baseR <;> exact fun _ => rfl

theorem res : Statement .res := fun _ => rfl

theorem lea (dr : Reg) (off9 : BitVec 9) : Statement (.lea dr off9) := by
  intro _
  refine matches_of_bits fun i hi => ?_
  interval_cases i <;> simp [Instr.row, encode, place, encodePc9]

theorem trapGetc : Statement .trapGetc := fun _ => rfl

theorem trapOut : Statement .trapOut := fun _ => rfl

theorem trapPuts : Statement .trapPuts := fun _ => rfl

theorem trapIn : Statement .trapIn := fun _ => rfl

theorem trapWriteline : Statement .trapWriteline := fun _ => rfl

theorem trapHalt : Statement .trapHalt := fun _ => rfl

theorem trapUnlisted00 (vect : BitVec 8) : Statement (.trapUnlisted00 vect) := by revert vect; unfold Statement; decide

theorem trapUnlisted26 (vect : BitVec 8) : Statement (.trapUnlisted26 vect) := by revert vect; unfold Statement; decide

theorem trapUnlisted28 (vect : BitVec 8) : Statement (.trapUnlisted28 vect) := by revert vect; unfold Statement; decide

theorem trapUnlisted30 (vect : BitVec 8) : Statement (.trapUnlisted30 vect) := by revert vect; unfold Statement; decide

theorem trapUnlisted40 (vect : BitVec 8) : Statement (.trapUnlisted40 vect) := by revert vect; unfold Statement; decide

theorem trapUnlisted80 (vect : BitVec 8) : Statement (.trapUnlisted80 vect) := by revert vect; unfold Statement; decide

end Sys2Proof.Laws.EncodedRow
end

