-- ==== Sys2Proof/Laws/Step.lean ====
section
/-! SUPPORT. What an instruction and a step can do, said once. -/

namespace Sys2Proof.Machine

/-- Everything the body of an instruction can do: define a register, store a cell, write PC, link and write PC,
nothing, one of the routines of TRAP, or stop the core. -/
theorem exec_cases {i : Instr} {s t : State} (h : exec i s = .next t) :
    (∃ dr v, destination i = some dr ∧ setsCond i = true ∧ isTrap i = false ∧ t = s.define dr v) ∨
    (∃ a r, storeAddress i s = some a ∧ storeSource i = some r ∧ t = s.writeMem a (s.readReg r)) ∨
    (∃ v, writesPc i = true ∧ destination i = none ∧ t = s.setPc v) ∨
    (∃ v, writesPc i = true ∧ destination i = some .r7 ∧ t = s.link.setPc v) ∨
    (t = s ∧ ((∃ n z p off9, i = .br n z p off9) ∨ isTrap i = true)) ∨
    (i = .trapGetc ∧ t = getcRoutine s) ∨
    (i = .trapIn ∧ t = inRoutine s) ∨
    (i = .trapOut ∧ t = s.consolePut (lowByte (s.readReg .r0))) ∨
    (i = .trapPuts ∧ t = putsRoutine s) ∨
    (i = .trapWriteline ∧ t = writeLineRoutine s) ∨
    (i = .trapHalt ∧ t = (s.consoleNotice .halt).stop .haltTrap) ∨
    (i = .rti ∧ t = s.raiseFault .faultRti) ∨
    (i = .res ∧ t = s.raiseFault .faultRes) := by
  cases i
  case br n z p off9 =>
    simp only [exec, execBr, Host.Outcome.next.injEq] at h
    subst h
    by_cases hb : branchTaken n z p s.cond
    · exact .inr <| .inr <| .inl ⟨pcRelative s off9, rfl, rfl, by simp [hb]⟩
    · exact .inr <| .inr <| .inr <| .inr <| .inl ⟨by simp [hb], .inl ⟨n, z, p, off9, rfl⟩⟩
  case addReg | addImm | andReg | andImm | not | ld | ldi | ldr | lea =>
    cases h; exact .inl ⟨_, _, rfl, rfl, rfl, rfl⟩
  case st | sti | str => cases h; exact .inr <| .inl ⟨_, _, rfl, rfl, rfl⟩
  case jmp => cases h; exact .inr <| .inr <| .inl ⟨_, rfl, rfl, rfl⟩
  case jsr | jsrr => cases h; exact .inr <| .inr <| .inr <| .inl ⟨_, rfl, rfl, rfl⟩
  case trapGetc => cases h; exact .inr <| .inr <| .inr <| .inr <| .inr <| .inl ⟨rfl, rfl⟩
  case trapIn => cases h; exact .inr <| .inr <| .inr <| .inr <| .inr <| .inr <| .inl ⟨rfl, rfl⟩
  case trapOut => cases h; simp
  case trapPuts => cases h; simp
  case trapWriteline => cases h; simp
  case trapHalt => cases h; simp
  case rti => cases h; simp
  case res => cases h; simp
  all_goals (cases h; exact .inr <| .inr <| .inr <| .inr <| .inl ⟨rfl, .inr rfl⟩)

/-- Every instruction has a next state, from every state. -/
theorem exec_next (i : Instr) (s : State) : ∃ t, exec i s = .next t := by
  cases i <;> exact ⟨_, rfl⟩

/-- No instruction drives the `reset` line. -/
theorem exec_resetLine {i : Instr} {s t : State} (h : exec i s = .next t) : t.resetLine = s.resetLine := by
  rcases exec_cases h with ⟨_, _, _, _, _, rfl⟩ | ⟨_, _, _, _, rfl⟩ | ⟨_, _, _, rfl⟩ | ⟨_, _, _, rfl⟩ | ⟨rfl, _⟩ |
    ⟨_, rfl⟩ | ⟨_, rfl⟩ | ⟨_, rfl⟩ | ⟨_, rfl⟩ | ⟨_, rfl⟩ | ⟨_, rfl⟩ | ⟨_, rfl⟩ | ⟨_, rfl⟩
  case inr.inr.inr.inr.inr.inl => rcases getcRoutine_cases s with ⟨_, e⟩ | ⟨_, _, _, e⟩ <;> rw [e] <;> simp
  case inr.inr.inr.inr.inr.inr.inl => rcases inRoutine_cases s with ⟨_, e⟩ | ⟨_, _, _, e⟩ <;> rw [e] <;> simp
  case inr.inr.inr.inr.inr.inr.inr.inr.inl =>
    rcases putsRoutine_cases s with ⟨_, _, e⟩ | ⟨_, e⟩ <;> rw [e] <;> simp
  all_goals rfl

/-- Everything a step can do: stay, under `reset` or in HALTED; go on inside a TRAP; or run the fetched instruction. -/
theorem step_cases {s t : State} (h : step s = .next t) :
    ((s.resetLine = true ∨ s.run = .halted) ∧ t = s) ∨
    (s.resetLine = false ∧ s.run = .running ∧ s.hold ≠ .idle ∧ t = resume s) ∨
    (s.resetLine = false ∧ s.run = .running ∧ s.hold = .idle ∧ exec (decode s.fetchWord) s.advance = .next t) := by
  simp only [step, cycle] at h
  cases hl : s.resetLine with
  | true => simp only [hl, if_true] at h; cases h; exact .inl ⟨.inl rfl, rfl⟩
  | false =>
    simp only [hl, Bool.false_eq_true, if_false] at h
    cases hr : s.run with
    | halted => rw [hr] at h; cases h; exact .inl ⟨.inr rfl, rfl⟩
    | running =>
      rw [hr] at h
      by_cases hh : s.hold = .idle
      · rw [if_pos hh] at h; exact .inr <| .inr ⟨rfl, rfl, hh, h⟩
      · rw [if_neg hh] at h; cases h; exact .inr <| .inl ⟨rfl, rfl, hh, rfl⟩

/-- A step while `reset` is asserted stays. -/
theorem step_resetLine {s : State} (h : s.resetLine = true) : step s = .next s := by
  simp [step, cycle, h]

/-- A step from HALTED stays. -/
theorem step_halted {s : State} (h : s.run = .halted) : step s = .next s := by
  simp [step, cycle, h]

/-- A step of a holding core. -/
theorem step_hold {s : State} (hl : s.resetLine = false) (hr : s.run = .running) (hh : s.hold ≠ .idle) :
    step s = .next (resume s) := by
  simp [step, cycle, hl, hr, hh]

theorem State.ready_iff (s : State) :
    s.ready = true ↔ s.resetLine = false ∧ s.run = .running ∧ s.hold = .idle := by
  simp [State.ready, and_assoc]

/-- A step of a ready core. -/
theorem step_of_ready {s : State} (h : s.ready = true) : step s = exec (decode (s.readMem s.pc)) s.advance := by
  obtain ⟨hl, hr, hh⟩ := s.ready_iff.1 h
  simp [step, cycle, hl, hr, hh, State.fetchWord]

/-- What a step of a holding core keeps. -/
theorem resume_keeps (s : State) :
    (resume s).mem = s.mem ∧ (resume s).pc = s.pc ∧ (resume s).run = s.run ∧
      (resume s).stopCause = s.stopCause ∧ (resume s).notices = s.notices ∧ (resume s).resetLine = s.resetLine := by
  rcases resume_cases s with ⟨_, e⟩ | ⟨_, e⟩ | ⟨_, e⟩ | ⟨a, _, e⟩ | ⟨k, _, e⟩ <;> rw [e]
  · simp
  · rcases getcRoutine_cases s with ⟨_, e⟩ | ⟨_, _, _, e⟩ <;> rw [e] <;> simp
  · rcases inRoutine_cases s with ⟨_, e⟩ | ⟨_, _, _, e⟩ <;> rw [e] <;> simp
  · unfold putsResume; split <;> simp
  · unfold writeLineResume; split <;> simp

/-- A run of one more step, where the first step is known. -/
theorem steps_succ_of_next {s t : State} (h : step s = .next t) (n : Nat) : steps (n + 1) s = steps n t := by
  simp only [steps, h]

/-- A run from a state whose step stays is that state. -/
theorem steps_of_stay {s : State} (h : step s = .next s) (n : Nat) : steps n s = .next s := by
  induction n with
  | zero => rfl
  | succ n ih => rw [steps_succ_of_next h]; exact ih

end Sys2Proof.Machine
end

