-- ==== Sys2Proof/Tests/Slice0.lean ====
section
/-! SUPPORT. Our own tests: the smoke test of WellFormed, a word written out for every constructor, single steps with
results from `spec/95_test_vectors.md` (the vector is named), and for every obligation with hypotheses a state and
operands that meet them all. -/

namespace Sys2Proof.Tests

open Sys2Proof.Machine

/-! ## WellFormed: an ill-formed term for each check, and the ends of each range (R63, R67) -/

theorem test_wf_refuses_listed_vector_as_00 : (Instr.trapUnlisted00 0x20#8).wellFormed = false := by decide
theorem test_wf_refuses_halt_as_26 : (Instr.trapUnlisted26 0x25#8).wellFormed = false := by decide
theorem test_wf_refuses_30_as_28 : (Instr.trapUnlisted28 0x30#8).wellFormed = false := by decide
theorem test_wf_refuses_2F_as_30 : (Instr.trapUnlisted30 0x2F#8).wellFormed = false := by decide
theorem test_wf_refuses_80_as_40 : (Instr.trapUnlisted40 0x80#8).wellFormed = false := by decide
theorem test_wf_refuses_7F_as_80 : (Instr.trapUnlisted80 0x7F#8).wellFormed = false := by decide
theorem test_wf_accepts_range_ends :
    ([.trapUnlisted00 0x00#8, .trapUnlisted00 0x1F#8, .trapUnlisted26 0x26#8, .trapUnlisted26 0x27#8,
      .trapUnlisted28 0x28#8, .trapUnlisted28 0x2F#8, .trapUnlisted30 0x30#8, .trapUnlisted30 0x3F#8,
      .trapUnlisted40 0x40#8, .trapUnlisted40 0x7F#8, .trapUnlisted80 0x80#8, .trapUnlisted80 0xFF#8] :
      List Instr).all Instr.wellFormed = true := by decide

/-! ## Decode: each constructor from a word written out bit by bit from its pattern (R54) -/

theorem test_decode_br : decode 0b0000_1_0_1_000000101#16 = .br true false true 0b000000101#9 := by decide
theorem test_decode_add_reg : decode 0b0001_110_101_0_10_011#16 = .addReg .r6 .r5 .r3 := by decide
theorem test_decode_add_imm : decode 0b0001_110_101_1_10011#16 = .addImm .r6 .r5 0b10011#5 := by decide
theorem test_decode_ld : decode 0b0010_001_100000001#16 = .ld .r1 0b100000001#9 := by decide
theorem test_decode_st : decode 0b0011_111_011111110#16 = .st .r7 0b011111110#9 := by decide
theorem test_decode_jsr : decode 0b0100_1_10000000001#16 = .jsr 0b10000000001#11 := by decide
theorem test_decode_jsrr : decode 0b0100_0_11_100_111111#16 = .jsrr .r4 := by decide
theorem test_decode_and_reg : decode 0b0101_011_110_0_01_001#16 = .andReg .r3 .r6 .r1 := by decide
theorem test_decode_and_imm : decode 0b0101_011_100_1_10000#16 = .andImm .r3 .r4 0b10000#5 := by decide
theorem test_decode_ldr : decode 0b0110_010_011_111111#16 = .ldr .r2 .r3 0b111111#6 := by decide
theorem test_decode_str : decode 0b0111_010_011_000001#16 = .str .r2 .r3 0b000001#6 := by decide
theorem test_decode_rti : decode 0b1000_111111111111#16 = .rti := by decide
theorem test_decode_not : decode 0b1001_010_001_000000#16 = .not .r2 .r1 := by decide
theorem test_decode_ldi : decode 0b1010_100_000001000#16 = .ldi .r4 0b000001000#9 := by decide
theorem test_decode_sti : decode 0b1011_001_000001000#16 = .sti .r1 0b000001000#9 := by decide
theorem test_decode_jmp : decode 0b1100_111_010_111111#16 = .jmp .r2 := by decide
theorem test_decode_res : decode 0b1101_101010111100#16 = .res := by decide
theorem test_decode_lea : decode 0b1110_011_000001000#16 = .lea .r3 0b000001000#9 := by decide
theorem test_decode_getc : decode 0b1111_0000_00100000#16 = .trapGetc := by decide
theorem test_decode_out : decode 0b1111_1111_00100001#16 = .trapOut := by decide
theorem test_decode_puts : decode 0b1111_0000_00100010#16 = .trapPuts := by decide
theorem test_decode_in : decode 0b1111_0000_00100011#16 = .trapIn := by decide
theorem test_decode_writeline : decode 0b1111_0000_00100100#16 = .trapWriteline := by decide
theorem test_decode_halt : decode 0b1111_1111_00100101#16 = .trapHalt := by decide
theorem test_decode_unlisted00 : decode 0b1111_0000_00011111#16 = .trapUnlisted00 0x1F#8 := by decide
theorem test_decode_unlisted26 : decode 0b1111_0000_00100110#16 = .trapUnlisted26 0x26#8 := by decide
theorem test_decode_unlisted28 : decode 0b1111_0000_00101000#16 = .trapUnlisted28 0x28#8 := by decide
theorem test_decode_unlisted30 : decode 0b1111_0000_00110000#16 = .trapUnlisted30 0x30#8 := by decide
theorem test_decode_unlisted40 : decode 0b1111_0000_01111111#16 = .trapUnlisted40 0x7F#8 := by decide
theorem test_decode_unlisted80 : decode 0b1111_0000_10000000#16 = .trapUnlisted80 0x80#8 := by decide
theorem test_decode_table_word : decodeTableWord 16 0x147F = some (.addImm .r2 .r1 0b11111#5) := by decide
/-- The opcode's default can never be taken (R125): RES is read from 13 alone. -/
theorem test_opcode_default_unreachable : ∀ b : BitVec 4, Opcode.ofBits b = .res → b = 13#4 := by decide

/-! ## Single steps, results from `spec/95_test_vectors.md` -/

/-- The state after a step. -/
def after (s : State) : State :=
  match step s with
  | .next t => t
  | _ => s

/-- A reset state with two registers and a cell set, and the word placed. -/
def start (w : Nat) (a : Reg × Word) (b : Reg × Word) (cell : Word × Word) : State :=
  (((State.reset.writeReg a.1 a.2).writeReg b.1 b.2).writeMem cell.1 cell.2).withFetchWord 16 w

/-- The same, at another PC. -/
def startAt (pc : Word) (w : Nat) (a : Reg × Word) (cell : Word × Word) : State :=
  (((State.reset.setPc pc).writeReg a.1 a.2).writeMem cell.1 cell.2).withFetchWord 16 w

/-- A3: bits 4:3 are ignored. -/
theorem test_add_reg_A3 :
    let t := after (start 0x1019 (.r0, 0x0003) (.r1, 0x0004) (0, 0))
    t.readReg .r0 = 0x0007 ∧ t.cond = 0x0001 ∧ t.pc = 0x3001 := by decide
/-- A4: source and destination are one register. -/
theorem test_add_reg_A4 :
    let t := after (start 0x1241 (.r0, 0) (.r1, 0x4000) (0, 0))
    t.readReg .r1 = 0x8000 ∧ t.cond = 0x0004 := by decide
/-- A6, the source's example S4. -/
theorem test_add_imm_A6 :
    let t := after (start 0x147F (.r0, 0) (.r1, 0x0005) (0, 0))
    t.readReg .r2 = 0x0004 ∧ t.cond = 0x0001 := by decide
/-- A21: the fetch at `0xFFFF` wraps. -/
theorem test_add_imm_A21 :
    let t := after (startAt 0xFFFF 0x1E3F (.r0, 0x0001) (0x5000, 0))
    t.readReg .r7 = 0x0000 ∧ t.pc = 0x0000 ∧ t.cond = 0x0002 := by decide
/-- A12. -/
theorem test_and_reg_A12 :
    let t := after (start 0x5401 (.r0, 0xFF0F) (.r1, 0x8F0F) (0, 0))
    t.readReg .r2 = 0x8F0F ∧ t.cond = 0x0004 := by decide
/-- A14: the immediate is sign-extended. -/
theorem test_and_imm_A14 :
    let t := after (start 0x5730 (.r0, 0) (.r4, 0xABCD) (0, 0))
    t.readReg .r3 = 0xABC0 ∧ t.cond = 0x0004 := by decide
/-- A19. -/
theorem test_not_A19 :
    let t := after (start 0x9240 (.r0, 0) (.r1, 0x8000) (0, 0))
    t.readReg .r1 = 0x7FFF ∧ t.cond = 0x0001 := by decide
/-- L2: offset -1 loads the instruction's own word. -/
theorem test_ld_L2 :
    let t := after (start 0x21FF (.r0, 0) (.r1, 0) (0, 0))
    t.readReg .r0 = 0x21FF ∧ t.cond = 0x0001 := by decide
/-- L5: the address wraps below 0. -/
theorem test_ld_L5 :
    let t := after (startAt 0x0004 0x25F0 (.r0, 0) (0xFFF5, 0x00AA))
    t.readReg .r2 = 0x00AA ∧ t.pc = 0x0005 := by decide
/-- L8: the pointer points at itself. -/
theorem test_ldi_L8 :
    let t := after (start 0xA000 (.r0, 0) (.r1, 0) (0x3001, 0x3001))
    t.readReg .r0 = 0x3001 ∧ t.cond = 0x0001 := by decide
/-- L10: the base is the destination, and the address wraps. -/
theorem test_ldr_L10 :
    let t := after (start 0x6241 (.r0, 0) (.r1, 0xFFFF) (0x0000, 0x1234))
    t.readReg .r1 = 0x1234 ∧ t.cond = 0x0001 := by decide
/-- L16: LEA sets COND. -/
theorem test_lea_L16 :
    let t := after (startAt 0x7F00 0xE0FF (.r0, 0) (0x5000, 0))
    t.readReg .r0 = 0x8000 ∧ t.cond = 0x0004 := by decide
/-- L20: a store over the instruction itself. -/
theorem test_st_L20 :
    let t := after (start 0x31FF (.r0, 0xAAAA) (.r1, 0) (0, 0))
    t.readMem 0x3000 = 0xAAAA ∧ t.pc = 0x3001 ∧ t.cond = 0x0002 := by decide
/-- L23: the pointer cell is overwritten after it is read. -/
theorem test_sti_L23 :
    let t := after (start 0xB200 (.r0, 0) (.r1, 0x1234) (0x3001, 0x3001))
    t.readMem 0x3001 = 0x1234 := by decide
/-- L25: the address wraps, and the base itself is stored. -/
theorem test_str_L25 :
    let t := after (start 0x76DF (.r0, 0) (.r3, 0xFFF0) (0, 0))
    t.readMem 0x000F = 0xFFF0 ∧ t.readReg .r3 = 0xFFF0 := by decide
/-- C15: BRn on NEG. -/
theorem test_br_C15 : (after ((start 0x0805 (.r0, 0) (.r1, 0) (0, 0)).setCond condNeg)).pc = 0x3006 := by decide
/-- C17: BRnp on ZRO is not taken. -/
theorem test_br_C17 : (after (start 0x0A05 (.r0, 0) (.r1, 0) (0, 0))).pc = 0x3001 := by decide
/-- C34: ignored bits of JMP. -/
theorem test_jmp_C34 : (after (start 0xCFFF (.r0, 0) (.r7, 0x1234) (0, 0))).pc = 0x1234 := by decide
/-- C38: offset -1024. -/
theorem test_jsr_C38 :
    let t := after (start 0x4C00 (.r0, 0) (.r1, 0) (0, 0))
    t.readReg .r7 = 0x3001 ∧ t.pc = 0x2C01 := by decide
/-- C42: base R7 falls through. -/
theorem test_jsrr_C42 :
    let t := after (start 0x41C0 (.r0, 0) (.r7, 0x4000) (0, 0))
    t.readReg .r7 = 0x3001 ∧ t.pc = 0x3001 := by decide
/-- T3: the character is zero-extended, COND is POS. -/
theorem test_getc_T3 :
    let t := after ((start 0xF020 (.r0, 0x1234) (.r1, 0) (0, 0)).supply [0xFF])
    t.readReg .r0 = 0x00FF ∧ t.cond = 0x0001 ∧ t.consoleIn = [] := by decide
/-- T4: no input, the step does not complete. -/
theorem test_getc_T4 :
    let t := after (start 0xF020 (.r0, 0) (.r1, 0) (0, 0))
    t.pc = 0x3001 ∧ t.run = .running ∧ t.hold = .getc ∧ after t = t := by decide
/-- T5: the high byte is ignored. -/
theorem test_out_T5 :
    (after (start 0xF021 (.r0, 0x1241) (.r1, 0) (0, 0))).consoleOut = [0x41] := by decide
/-- T8: the string wraps, and `0x4100` is no terminator. -/
theorem test_puts_T8 :
    (after (((start 0xF022 (.r0, 0xFFFF) (.r1, 0) (0x0000, 0x4100)).writeMem 0x0001 0x0042).writeMem
      0xFFFF 0x0141)).consoleOut = [0x41, 0x00, 0x42] := by decide
/-- T7: the empty string. -/
theorem test_puts_T7 : (after (start 0xF022 (.r0, 0x4000) (.r1, 0) (0, 0))).consoleOut = [] := by decide
/-- T9: echo, and no prompt. -/
theorem test_in_T9 :
    let t := after ((start 0xF023 (.r0, 0) (.r1, 0) (0, 0)).supply [0x7A])
    t.readReg .r0 = 0x007A ∧ t.consoleOut = [0x7A] ∧ t.cond = 0x0001 := by decide
/-- T10: the architectural effect of WRITELINE. -/
theorem test_writeline_T10 :
    let t := after ((start 0xF024 (.r0, 0x3005) (.r1, 0) (0, 0)).setCond condNeg)
    t.pc = 0x3001 ∧ t.cond = condNeg ∧ t.readReg .r0 = 0x3005 := by decide
/-- T12: R7 and COND untouched, bits 11:8 ignored. -/
theorem test_halt_T12 :
    let t := after (start 0xFF25 (.r0, 0) (.r7, 0x1111) (0, 0))
    t.run = .halted ∧ t.stopCause = .haltTrap ∧ t.readReg .r7 = 0x1111 ∧ t.notices = [.halt] := by decide
/-- T16: no output, R7 untouched. -/
theorem test_unlisted_T16 :
    let t := after (start 0xF01F (.r0, 0x0041) (.r7, 0x2222) (0, 0))
    t.pc = 0x3001 ∧ t.readReg .r7 = 0x2222 ∧ t.consoleOut = [] := by decide
/-- T18. -/
theorem test_rti_T18 :
    let t := after (start 0x8FFF (.r0, 0) (.r3, 0x0007) (0, 0))
    t.run = .halted ∧ t.stopCause = .faultRti ∧ t.pc = 0x3001 := by decide
/-- T20: a fault at `0xFFFF`. -/
theorem test_res_T20 :
    let t := after (startAt 0xFFFF 0xDABC (.r0, 0) (0x5000, 0))
    t.run = .halted ∧ t.stopCause = .faultRes ∧ t.pc = 0x0000 := by decide
/-- L22: the transactions of STI, in order (R42). -/
theorem test_txns_L22 :
    (stepTxns ((startAt 0x3005 0xB208 (.r1, 0x0005) (0x300E, 0x300B)))).map
      (fun | .memRead a _ => (0, a) | .memWrite a _ => (1, a) | _ => (2, 0)) =
      [(0, 0x3005#16), (0, 0x300E#16), (1, 0x300B#16)] := by decide
/-- S6: the image of the source's example. -/
theorem test_image_S6 :
    loadImage [] [0x30, 0x00, 0x10, 0x01, 0xF0, 0x25] = some [(0x3000, 0x1001), (0x3001, 0xF025)] := by decide
/-- An odd byte is left to the loader. -/
theorem test_image_odd_byte : loadImage [] [0x30, 0x00, 0x10] = none := by decide

/-! ## Witnesses: the hypotheses of each obligation can be met together -/

/-- A state from reset with a word placed. -/
def ready (w : Nat) : State := State.reset.withFetchWord 16 w

theorem witness_DecodeOfEncodeIsTheInstruction :
    ∃ i : Instr, i = .trapUnlisted26 0x27#8 ∧ i.wellFormed = true := ⟨_, rfl, by decide⟩

theorem witness_UnnamedBitsAreIgnored :
    ∃ w v : Word, w ≠ v ∧ w &&& (decode w).usedMask = v &&& (decode w).usedMask :=
  ⟨0x1001, 0x1019, by decide, by decide⟩

theorem witness_EveryWordMatchesExactlyItsRow : ∃ r, r ∈ opcodeTable ∧ r.matchesWord 0xF026#16 = true :=
  ⟨⟨0xF026, 0xF0FE⟩, by decide, by decide⟩

theorem witness_StepRunsTheFetchedInstruction :
    (ready 0x1401).resetLine = false ∧ (ready 0x1401).run = .running ∧ (ready 0x1401).hold = .idle := by decide

theorem witness_HaltedCoreTakesNoStep : (after (ready 0xF025)).run = .halted := by decide

theorem witness_RunStateTransitions_halt : ∃ t, step (ready 0xFF25) = .next t ∧ (ready 0xFF25).ready = true ∧
    haltWord ((ready 0xFF25).readMem (ready 0xFF25).pc) := ⟨_, rfl, by decide, by unfold haltWord; decide⟩

theorem witness_RunStateTransitions_rti : ∃ t, step (ready 0x8FFF) = .next t ∧ (ready 0x8FFF).ready = true ∧
    rtiWord ((ready 0x8FFF).readMem (ready 0x8FFF).pc) := ⟨_, rfl, by decide, by unfold rtiWord; decide⟩

theorem witness_RunStateTransitions_res : ∃ t, step (ready 0xD000) = .next t ∧ (ready 0xD000).ready = true ∧
    resWord ((ready 0xD000).readMem (ready 0xD000).pc) := ⟨_, rfl, by decide, by unfold resWord; decide⟩

theorem witness_RunStateTransitions_other : ∃ t, step (ready 0xF026) = .next t ∧ (ready 0xF026).ready = true ∧
    ¬ haltWord ((ready 0xF026).readMem (ready 0xF026).pc) ∧ ¬ rtiWord ((ready 0xF026).readMem (ready 0xF026).pc) ∧
    ¬ resWord ((ready 0xF026).readMem (ready 0xF026).pc) :=
  ⟨_, rfl, by decide, by unfold haltWord; decide, by unfold rtiWord; decide, by unfold resWord; decide⟩

theorem witness_RunStateTransitions_notReady :
    ∃ t, step (after (ready 0xF020)) = .next t ∧ (after (ready 0xF020)).ready = false := ⟨_, rfl, by decide⟩

theorem witness_SignExtensionOfFields_clear : 5 ∈ [5, 6, 9, 11] ∧ (0b01111#5).getLsbD (5 - 1) = false := by decide

theorem witness_SignExtensionOfFields_set : 11 ∈ [5, 6, 9, 11] ∧ (0x400#11).getLsbD (11 - 1) = true := by decide

theorem witness_SetccByBitFifteenAndZero_neg :
    0x8000 ≤ ((State.reset.writeReg .r1 0x8000).readReg .r1).toNat := by decide

theorem witness_SetccByBitFifteenAndZero_pos_low :
    1 ≤ ((State.reset.writeReg .r1 0x0001).readReg .r1).toNat ∧
      ((State.reset.writeReg .r1 0x0001).readReg .r1).toNat ≤ 0x7FFF := by decide

theorem witness_SetccByBitFifteenAndZero_pos_high :
    1 ≤ ((State.reset.writeReg .r1 0x7FFF).readReg .r1).toNat ∧
      ((State.reset.writeReg .r1 0x7FFF).readReg .r1).toNat ≤ 0x7FFF := by decide

theorem witness_CondIsAlwaysOneFlag : ∃ t, condLegal (ready 0x1401).cond = true ∧ step (ready 0x1401) = .next t :=
  ⟨_, by decide, rfl⟩

theorem witness_BranchTestIsTheBitTest : condLegal condNeg = true ∧ condLegal condZro = true ∧
    condLegal condPos = true := by decide

theorem witness_AddRegisterForm : (0x1019#16).extractLsb' 12 4 = 0b0001#4 ∧ (0x1019#16).getLsbD 5 = false := by decide

theorem witness_AddImmediateForm : (0x147F#16).extractLsb' 12 4 = 0b0001#4 ∧ (0x147F#16).getLsbD 5 = true := by decide

/-- ST R0, #0 stores over the next instruction (vector L19). -/
theorem witness_StoreIsSeenByTheNextFetch :
    ∃ (s t : State) (r : Reg), s.ready = true ∧ step s = .next t ∧
      storeAddress (decode (s.readMem s.pc)) { s with pc := s.pc + 1 } = some t.pc ∧
      storeSource (decode (s.readMem s.pc)) = some r :=
  ⟨start 0x3000 (.r0, 0xF025) (.r1, 0) (0x5000, 0), _, .r0, by decide, rfl, by decide, by decide⟩

/-- JSR #5 at `0x3000`, RET at `0x3006`. -/
theorem witness_ReturnGoesAfterTheCall_jsr :
    ∃ s t u : State, s.ready = true ∧ step s = .next t ∧ (∃ off11, decode (s.readMem s.pc) = .jsr off11) ∧
      u.ready = true ∧ u.readMem u.pc = 0xC1C0#16 ∧ u.readReg .r7 = t.readReg .r7 :=
  ⟨start 0x4805 (.r0, 0) (.r1, 0) (0x3006, 0xC1C0), _, after (start 0x4805 (.r0, 0) (.r1, 0) (0x3006, 0xC1C0)),
    by decide, rfl, ⟨0b101#11, by decide⟩, by decide, by decide, by decide⟩

/-- JSRR R2 to `0x5000`, RET there. -/
theorem witness_ReturnGoesAfterTheCall_jsrr :
    ∃ s t u : State, s.ready = true ∧ step s = .next t ∧ (∃ baseR, decode (s.readMem s.pc) = .jsrr baseR) ∧
      u.ready = true ∧ u.readMem u.pc = 0xC1C0#16 ∧ u.readReg .r7 = t.readReg .r7 :=
  ⟨start 0x4080 (.r2, 0x5000) (.r1, 0) (0x5000, 0xC1C0), _,
    after (start 0x4080 (.r2, 0x5000) (.r1, 0) (0x5000, 0xC1C0)),
    by decide, rfl, ⟨.r2, by decide⟩, by decide, by decide, by decide⟩

theorem witness_JsrrLinksThenReadsItsBase : (Reg.r0 ≠ .r7) ∧ (Reg.r7 = .r7) := by decide

theorem witness_ZeroMemoryRunsOnForEver :
    State.reset.ready = true ∧ ∀ a : Word, State.reset.readMem a = 0x0000#16 := ⟨by decide, fun _ => rfl⟩

theorem witness_BranchOnNothingIsANoOperation_low :
    (ready 0x0000).ready = true ∧ ((ready 0x0000).readMem (ready 0x0000).pc).toNat < 0x0200 := by decide

theorem witness_BranchOnNothingIsANoOperation_high :
    (ready 0x01FF).ready = true ∧ ((ready 0x01FF).readMem (ready 0x01FF).pc).toNat < 0x0200 := by decide

theorem witness_GetcReadsACharacter :
    ∃ c rest, ((ready 0xF020).supply [0x41, 0x42]).consoleIn = c :: rest := ⟨0x41, [0x42], by decide⟩

theorem witness_InReadsAndEchoesACharacter :
    ∃ c rest, ((ready 0xF023).supply [0x00]).consoleIn = c :: rest := ⟨0x00, [], by decide⟩

theorem witness_InputRoutinesWaitForACharacter_empty : (ready 0xF020).consoleIn = [] := by decide

theorem witness_InputRoutinesWaitForACharacter_getc :
    (after (ready 0xF020)).waiting = true ∧ (after (ready 0xF020)).resetLine = false ∧ (after (ready 0xF020)).run = .running ∧
      (after (ready 0xF020)).hold = .getc ∧ (after (ready 0xF020)).consoleIn = [] := by decide

theorem witness_InputRoutinesWaitForACharacter_in :
    (after (ready 0xF023)).waiting = true ∧ (after (ready 0xF023)).resetLine = false ∧ (after (ready 0xF023)).run = .running ∧
      (after (ready 0xF023)).hold = .inEcho ∧ (after (ready 0xF023)).consoleIn = [] := by decide

/-- "Hi" at `0x3005` (vector T6). -/
def hiState : State :=
  (((State.reset.writeReg .r0 0x3005).writeMem 0x3005 0x0048).writeMem 0x3006 0x0069).withFetchWord 16 0xF022

theorem witness_PutsSendsTheString :
    let cs : List Byte := [0x48, 0x69]
    cs.length < 65536 ∧
    (∀ (k : Nat) (h : k < cs.length), hiState.readMem (hiState.readReg .r0 + BitVec.ofNat 16 k) ≠ 0x0000#16 ∧
      cs[k] = (hiState.readMem (hiState.readReg .r0 + BitVec.ofNat 16 k)).extractLsb' 0 8) ∧
    hiState.readMem (hiState.readReg .r0 + BitVec.ofNat 16 cs.length) = 0x0000#16 := by decide

/-- The empty string. -/
theorem witness_PutsSendsTheString_empty :
    ([] : List Byte).length < 65536 ∧
    State.reset.readMem (State.reset.readReg .r0 + BitVec.ofNat 16 ([] : List Byte).length) = 0x0000#16 := by decide

theorem lookup_map_const (l : List Nat) (v : Word) {a : Nat} (h : a ∈ l) :
    Memory.lookup (l.map fun k => (k, v)) a = v := by
  induction l with
  | nil => cases h
  | cons k l ih =>
    by_cases hk : k = a
    · simp [Memory.lookup, hk]
    · simp only [List.map_cons, Memory.lookup, hk, if_false]
      exact ih (by rcases List.mem_cons.1 h with h | h; exacts [absurd h.symm hk, h])

/-- A state with no zero cell, inside PUTS. -/
theorem witness_PutsWithoutATerminatorNeverEnds :
    ∃ s : State, (∀ a : Word, s.readMem a ≠ 0x0000#16) ∧ s.resetLine = false ∧ s.run = .running ∧
      s.hold = .puts 0x0000 := by
  have key : ∀ n : Nat, (∀ a : Word, a.toNat < n) → ∃ s : State,
      (∀ a : Word, s.readMem a ≠ 0x0000#16) ∧ s.resetLine = false ∧ s.run = .running ∧ s.hold = .puts 0x0000 := by
    intro n h
    refine ⟨{ State.reset with mem := (List.range n).map fun k => (k, 0x0001#16), hold := .puts 0x0000 },
      fun a => ?_, rfl, rfl, rfl⟩
    show Memory.lookup ((List.range n).map fun k => (k, 0x0001#16)) a.toNat ≠ 0x0000#16
    rw [lookup_map_const _ _ (List.mem_range.2 (h a))]; decide
  exact key (2 ^ 16) fun a => a.isLt

theorem witness_WritelineSendsTheParameter :
    (State.reset.setHold (.writeLine 3)).resetLine = false ∧ (State.reset.setHold (.writeLine 3)).run = .running ∧
      (State.reset.setHold (.writeLine 3)).hold = .writeLine 3 := by decide

theorem witness_UnlistedTrapsDoNothing_below : (0xF01F#16).extractLsb' 12 4 = 0b1111#4 ∧
    ¬ (0x20 ≤ ((0xF01F#16).extractLsb' 0 8).toNat ∧ ((0xF01F#16).extractLsb' 0 8).toNat ≤ 0x25) := by decide

theorem witness_UnlistedTrapsDoNothing_above : (0xFF26#16).extractLsb' 12 4 = 0b1111#4 ∧
    ¬ (0x20 ≤ ((0xFF26#16).extractLsb' 0 8).toNat ∧ ((0xFF26#16).extractLsb' 0 8).toNat ≤ 0x25) := by decide

theorem witness_TrapsKeepPcLinkAndMemory : isTrap .trapGetc = true ∧ isTrap (.trapUnlisted80 0xFF#8) = true := by decide

theorem witness_FaultingWordIsBehindThePc_rti : ∃ t, (ready 0x8000).ready = true ∧
    (ready 0x8000).stopCause = .none ∧ step (ready 0x8000) = .next t ∧ t.stopCause = .faultRti :=
  ⟨_, by decide, by decide, rfl, by decide⟩

theorem witness_FaultingWordIsBehindThePc_res : ∃ t, (ready 0xDFFF).ready = true ∧
    (ready 0xDFFF).stopCause = .none ∧ step (ready 0xDFFF) = .next t ∧ t.stopCause = .faultRes :=
  ⟨_, by decide, by decide, rfl, by decide⟩

theorem witness_EveryInitialMemoryIsOneCanonicalList :
    ∃ m m' : Memory, m.wf = true ∧ m'.wf = true ∧
      (∀ a : Word, (State.resetWith m).readMem a = (State.resetWith m').readMem a) :=
  ⟨[(0x3000, 0xF025)], [(0x3000, 0xF025)], by decide, by decide, fun _ => rfl⟩

/-- An image whose last word lies at `0xFFFF`. -/
theorem witness_ImageWordsGoToRisingAddresses :
    Memory.wf [(0x3000, 0xF025)] = true ∧ (0xFFFE#16).toNat + ([0x1001, 0xF025] : List Word).length ≤ 65536 := by decide

theorem witness_EveryStepKeepsTheStateLegal :
    ∃ t, (ready 0x31FF).legal = true ∧ step (ready 0x31FF) = .next t := ⟨_, by decide, rfl⟩

theorem witness_ResetStateIsLegal : (after (ready 0x8000)).mem.wf = true := by decide

/-- A cell no store names, in a step that stores. -/
theorem witness_OnlyStoresChangeMemory : ∃ t, step (ready 0x3001) = .next t ∧
    ¬ ((ready 0x3001).ready = true ∧ storeAddress (decode ((ready 0x3001).readMem (ready 0x3001).pc))
      { ready 0x3001 with pc := (ready 0x3001).pc + 1 } = some 0x4000#16) := ⟨_, rfl, by decide⟩

theorem witness_OnlyTheDestinationChanges : ∃ t, step (ready 0x4800) = .next t ∧
    t.readReg .r7 ≠ (ready 0x4800).readReg .r7 := ⟨_, rfl, by decide⟩

theorem witness_OnlyListedInstructionsChangeCond : ∃ t, step (ready 0x103F) = .next t ∧
    t.cond ≠ (ready 0x103F).cond := ⟨_, rfl, by decide⟩

theorem witness_PcAdvancesByOneOtherwise_ready : ∃ t, step (ready 0xF022) = .next t ∧ (ready 0xF022).ready = true ∧
    writesPc (decode ((ready 0xF022).readMem (ready 0xF022).pc)) = false := ⟨_, rfl, by decide, by decide⟩

theorem witness_PcAdvancesByOneOtherwise_notReady :
    ∃ t, step (after (ready 0xD000)) = .next t ∧ (after (ready 0xD000)).ready = false := ⟨_, rfl, by decide⟩

theorem witness_TransactionsAccountForTheStep : ∃ t, step hiState = .next t ∧ hiState.ready = true ∧
    .memRead 0x3006 0x0069 ∈ stepTxns hiState := ⟨_, rfl, by decide, by decide⟩

theorem witness_OutputNeverInfluencesAStep : ∃ t, step (ready 0xF021) = .next t := ⟨_, rfl⟩

theorem witness_InputIsConsumedInOrder : ∃ t, step ((ready 0xF023).supply [0x41, 0x42]) = .next t ∧
    ((ready 0xF023).supply [0x41, 0x42]).consoleIn = 0x41 :: t.consoleIn := ⟨_, rfl, by decide⟩

theorem witness_SlotsKeepTheContract : Slot.index .pc = Slot.index .pc ∧ (Slot.cond ≠ .pc) := by decide

/-- A halted core under `reset`, the line held. -/
def held : State := (after (ready 0xF025)).assertReset

theorem witness_ResetHeldAssertedHoldsTheCore : held.resetLine = true ∧ held.atReset = true := by decide

theorem witness_NoStepDrivesTheResetLine_asserted : step held = .next held ∧ held.resetLine = true := ⟨rfl, by decide⟩

theorem witness_NoStepDrivesTheResetLine_released : ∃ t, step (ready 0xF025) = .next t ∧ t.resetLine = false :=
  ⟨_, rfl, by decide⟩

theorem witness_HostReachesAStoppedOrResetCoreAlone_reset : held.run = .running ∧ held.resetLine = true := by decide

theorem witness_HostReachesAStoppedOrResetCoreAlone_halted :
    (after (ready 0xF025)).run = .halted ∧ (after (ready 0xF025)).resetLine = false := by decide

theorem witness_HostReachesAStoppedOrResetCoreAlone_running :
    ¬ ((ready 0xF025).run = .halted ∨ (ready 0xF025).resetLine = true) := by decide

theorem witness_BootStartsOnlyALoadedCore_loads :
    loadImages held.mem [[0x30, 0x00, 0x10, 0x01, 0xF0, 0x25]] = some [(0x3000, 0x1001), (0x3001, 0xF025)] := by decide

theorem witness_BootStartsOnlyALoadedCore_fails : loadImages held.mem [[0x30, 0x00, 0xF0, 0x25], [0x40]] = none := by decide

theorem witness_BootStartsOnlyALoadedCore_released : (ready 0x0000).resetLine = false := by decide

theorem witness_HostMovesKeepTheStateLegal : held.legal = true ∧
    (∃ t, held.hostWrite 0xFFFF 0x0000 = some t) ∧ (∃ t, held.load [[0x30, 0x00, 0xF0, 0x25]] = some t) ∧
    ∃ t, held.boot [[0x30, 0x00, 0xF0, 0x25]] = some t := ⟨by decide, ⟨_, rfl⟩, ⟨_, rfl⟩, ⟨_, rfl⟩⟩

/-- R6, R72: `reset` ends HALTED; the line held, no step is taken and no transaction is made; the host may read. -/
theorem test_reset_held :
    after held = held ∧ stepTxns held = [] ∧ held.inspectSlot .pc = some 0x3000 ∧ held.inspectCell 0x3000 = some 0xF025 :=
  by decide

/-- R144: boot with the source's image (S6) starts at `0x3000`, where the first step adds and reaches `0x3001`. -/
theorem test_boot_S6 :
    ((after (ready 0x8000)).boot [[0x30, 0x00, 0x10, 0x01, 0xF0, 0x25]]).map (fun s => (s.pc, (after s).pc, (after s).run)) =
      some (0x3000, 0x3001, .running) := by decide

/-- R50, R146: the host has no write to a running core, and no read. -/
theorem test_host_shut_out_while_running :
    (ready 0x0000).hostWrite 0x4000 0x0001 = none ∧ (ready 0x0000).inspectCell 0x4000 = none := by decide

end Sys2Proof.Tests
end

section
/-! The model's `sext` is the library's sign extension, for a field of any width (`00_scope.md` R10). -/

namespace Sys2Proof.Machine

variable {n : Nat} {f : BitVec n}

theorem sext_of_msb_clear (h : f.msb = false) : sext n f = f.setWidth 16 := by simp [sext, h]

theorem sext_of_msb_set (h : f.msb = true) : sext n f = f.setWidth 16 ||| (0xFFFF#16 <<< n) := by simp [sext, h]

theorem getLsbD_ones_shiftLeft {i : Nat} (hi : i < 16) : (0xFFFF#16 <<< n).getLsbD i = decide (n ≤ i) := by
  have hones : (0xFFFF#16).getLsbD (i - n) = true := by
    change (BitVec.allOnes 16).getLsbD (i - n) = true
    rw [BitVec.getLsbD_allOnes]
    exact decide_eq_true (by omega)
  rw [BitVec.getLsbD_shiftLeft, hones]
  simp [hi, ← decide_not]

/-- OR with every bit above the field, the source's wording, is copying the field's top bit into all of them. -/
theorem sext_eq_signExtend (f : BitVec n) : sext n f = f.signExtend 16 := by
  refine BitVec.eq_of_getLsbD_eq fun i hi => ?_
  rw [BitVec.getLsbD_signExtend]
  cases h : f.msb with
  | false =>
    rw [sext_of_msb_clear h]
    by_cases hin : i < n
    · simp [hin, hi]
    · simp [hin, BitVec.getLsbD_of_ge f i (by omega)]
  | true =>
    rw [sext_of_msb_set h, BitVec.getLsbD_or, getLsbD_ones_shiftLeft hi]
    by_cases hin : i < n
    · simp [hin, hi]
    · simp [hin, hi, Nat.le_of_not_lt hin]

theorem toNat_sext_of_msb_clear (hn : n ≤ 16) (h : f.msb = false) : (sext n f).toNat = f.toNat := by
  rw [sext_of_msb_clear h, BitVec.toNat_setWidth_of_le hn]

theorem toNat_sext_of_msb_set (hn : n ≤ 16) (h : f.msb = true) : (sext n f).toNat = f.toNat + 65536 - 2 ^ n := by
  have hpow : 2 ^ n ≤ 2 ^ 16 := Nat.pow_le_pow_right (by decide) hn
  rw [sext_eq_signExtend, BitVec.toNat_signExtend, BitVec.toNat_setWidth_of_le hn, if_pos h]
  omega

theorem toInt_sext (hn : n ≤ 16) (f : BitVec n) : (sext n f).toInt = f.toInt := by
  rw [sext_eq_signExtend, BitVec.toInt_signExtend_of_le hn]

theorem toInt_sext_of_msb_clear (hn : n ≤ 16) (h : f.msb = false) : (sext n f).toInt = (f.toNat : Int) := by
  rw [toInt_sext hn, BitVec.toInt_eq_toNat_of_msb h]

theorem toInt_sext_of_msb_set (hn : n ≤ 16) (h : f.msb = true) : (sext n f).toInt = (f.toNat : Int) - 2 ^ n := by
  rw [toInt_sext hn, BitVec.toInt_eq_msb_cond, if_pos h, Nat.cast_pow, Nat.cast_ofNat]

/-- Settles O10: each of the four widths fits into a word, and bit N-1 is the field's top bit. -/
theorem signExtensionOfFields : Obligations.SignExtensionOfFields := by
  intro n hmem f
  have hn : n ≤ 16 := by
    simp only [List.mem_cons, List.not_mem_nil, or_false] at hmem
    omega
  rw [← BitVec.msb_eq_getLsbD_last]
  exact ⟨fun h => ⟨toNat_sext_of_msb_clear hn h, toInt_sext_of_msb_clear hn h⟩,
    fun h => ⟨toNat_sext_of_msb_set hn h, toInt_sext_of_msb_set hn h, sext_of_msb_set h⟩⟩

end Sys2Proof.Machine
end

section
/-! The condition flags (`10_state.md` R21, R22): what `setcc` writes, and that a step either leaves COND as it is or
writes the flag of some value, which is always one of the three. -/

namespace Sys2Proof.Machine

/-! ## `setcc` -/

@[simp] theorem State.setcc_cond (s : State) (r : Reg) : (s.setcc r).cond = condOf (s.readReg r) := rfl

theorem condOf_of_high {v : Word} (h : 0x8000 ≤ v.toNat) : condOf v = condNeg := by
  have hmsb : v.msb = true := BitVec.msb_eq_true_iff_two_mul_ge.2 (by omega)
  simp [condOf, hmsb]

theorem condOf_of_low {v : Word} (hpos : 1 ≤ v.toNat) (hlow : v.toNat ≤ 0x7FFF) : condOf v = condPos := by
  have hmsb : v.msb = false := BitVec.msb_eq_false_iff_two_mul_lt.2 (by omega)
  have hne : v ≠ 0#16 := by rintro rfl; simp at hpos
  simp [condOf, hmsb, hne]

/-- Settles O11: the flag of a value by its bit 15 and by its range; every other field is untouched by `setCond`. -/
theorem setccByBitFifteenAndZero : Obligations.SetccByBitFifteenAndZero := fun s r =>
  ⟨condOf_eq (s.readReg r), condOf_of_high, fun ⟨hpos, hlow⟩ => condOf_of_low hpos hlow,
    fun _ => rfl, rfl, fun _ => rfl, ⟨rfl, rfl, rfl, rfl⟩, ⟨rfl, rfl, rfl⟩⟩

/-! ## COND over the routines, the instructions and the step -/

theorem getcRoutine_cond (s : State) :
    (getcRoutine s).cond = s.cond ∨ ∃ v, (getcRoutine s).cond = condOf v := by
  rcases getcRoutine_cases s with ⟨_, e⟩ | ⟨c, _, _, e⟩ <;> rw [e]
  · exact .inl rfl
  · exact .inr ⟨zext8 c, State.define_cond _ _ _⟩

theorem inRoutine_cond (s : State) : (inRoutine s).cond = s.cond ∨ ∃ v, (inRoutine s).cond = condOf v := by
  rcases inRoutine_cases s with ⟨_, e⟩ | ⟨c, _, _, e⟩ <;> rw [e]
  · exact .inl rfl
  · exact .inr ⟨zext8 c, State.define_cond _ _ _⟩

@[simp] theorem putsRoutine_cond (s : State) : (putsRoutine s).cond = s.cond := by
  rcases putsRoutine_cases s with ⟨_, _, e⟩ | ⟨_, e⟩ <;> rw [e] <;> rfl

@[simp] theorem putsResume_cond (a : Word) (s : State) : (putsResume a s).cond = s.cond := by
  unfold putsResume; split <;> rfl

@[simp] theorem writeLineRoutine_cond (s : State) : (writeLineRoutine s).cond = s.cond := rfl

@[simp] theorem writeLineResume_cond (k : Nat) (s : State) : (writeLineResume k s).cond = s.cond := by
  unfold writeLineResume; split <;> rfl

/-- An instruction leaves COND as it is, or is one of the list of R23 and writes the flag of some value. -/
theorem exec_cond {i : Instr} {s t : State} (h : exec i s = .next t) :
    t.cond = s.cond ∨ setsCond i = true ∧ ∃ v, t.cond = condOf v := by
  rcases exec_cases h with ⟨dr, v, _, hsets, _, rfl⟩ | ⟨_, _, _, _, rfl⟩ | ⟨_, _, _, rfl⟩ | ⟨_, _, _, rfl⟩ | ⟨rfl, _⟩ |
    ⟨rfl, rfl⟩ | ⟨rfl, rfl⟩ | ⟨_, rfl⟩ | ⟨_, rfl⟩ | ⟨_, rfl⟩ | ⟨_, rfl⟩ | ⟨_, rfl⟩ | ⟨_, rfl⟩
  case inl => exact .inr ⟨hsets, v, s.define_cond dr v⟩
  case inr.inr.inr.inr.inr.inl => exact (getcRoutine_cond s).imp_right fun hv => ⟨rfl, hv⟩
  case inr.inr.inr.inr.inr.inr.inl => exact (inRoutine_cond s).imp_right fun hv => ⟨rfl, hv⟩
  case inr.inr.inr.inr.inr.inr.inr.inr.inl => exact .inl (putsRoutine_cond s)
  all_goals exact .inl rfl

/-- A step of a holding core leaves COND as it is, or GETC or IN completes and writes the flag of the character. -/
theorem resume_cond (s : State) :
    (resume s).cond = s.cond ∨ (s.hold = .getc ∨ s.hold = .inEcho) ∧ ∃ v, (resume s).cond = condOf v := by
  rcases resume_cases s with ⟨_, e⟩ | ⟨hh, e⟩ | ⟨hh, e⟩ | ⟨a, _, e⟩ | ⟨k, _, e⟩ <;> rw [e]
  · exact .inl rfl
  · exact (getcRoutine_cond s).imp_right fun hv => ⟨.inl hh, hv⟩
  · exact (inRoutine_cond s).imp_right fun hv => ⟨.inr hh, hv⟩
  · exact .inl (putsResume_cond a s)
  · exact .inl (writeLineResume_cond k s)

/-- The invariant's key: a step never writes anything to COND but the flag of a value. -/
theorem step_cond {s t : State} (h : step s = .next t) : t.cond = s.cond ∨ ∃ v, t.cond = condOf v := by
  rcases step_cases h with ⟨_, rfl⟩ | ⟨_, _, _, rfl⟩ | ⟨_, _, _, hexec⟩
  · exact .inl rfl
  · exact (resume_cond s).imp_right And.right
  · exact (exec_cond hexec).imp_right And.right

theorem step_condLegal {s t : State} (hs : condLegal s.cond = true) (h : step s = .next t) :
    condLegal t.cond = true := by
  rcases step_cond h with e | ⟨v, e⟩ <;> rw [e]
  · exact hs
  · exact condOf_legal v

/-- Settles O12: ZRO after reset, and `step_condLegal` for every step. -/
theorem condIsAlwaysOneFlag : Obligations.CondIsAlwaysOneFlag :=
  ⟨by decide, by decide, fun _ => by rw [State.applyReset_cond]; decide, fun _ _ => step_condLegal⟩

end Sys2Proof.Machine
end

section
/-! The fetch-decode-execute cycle (`40_execution_cycle.md` R73). -/

namespace Sys2Proof.Machine

/-- Settles O6: the three hypotheses are `ready`, so the step takes the fetch; `advance` writes PC alone. -/
theorem stepRunsTheFetchedInstruction : Obligations.StepRunsTheFetchedInstruction := by
  intro s hline hrun hhold
  have hready : s.ready = true := s.ready_iff.2 ⟨hline, hrun, hhold⟩
  exact step_of_ready hready

end Sys2Proof.Machine
end

section
/-! ADD, both forms (`41_operate.md` R83, R84): what its words decode to, and the one `define` its body makes. -/

namespace Sys2Proof.Machine

/-! ## The words of opcode `0001` (R52, R56) -/

theorem decode_of_opcode_add {w : Word} (hop : w.extractLsb' 12 4 = 0b0001#4) :
    decode w = if w.getLsbD 5 then .addImm (fieldDr w) (fieldBase w) (fieldImm5 w)
      else .addReg (fieldDr w) (fieldBase w) (fieldSr2 w) := by
  have hadd : Opcode.ofBits (fieldOp w) = .add := congrArg Opcode.ofBits hop
  simp only [decode, hadd]

theorem decode_addReg {w : Word} (hop : w.extractLsb' 12 4 = 0b0001#4) (hform : w.getLsbD 5 = false) :
    decode w = .addReg (fieldDr w) (fieldBase w) (fieldSr2 w) := by
  rw [decode_of_opcode_add hop, hform, if_neg Bool.false_ne_true]

theorem decode_addImm {w : Word} (hop : w.extractLsb' 12 4 = 0b0001#4) (hform : w.getLsbD 5 = true) :
    decode w = .addImm (fieldDr w) (fieldBase w) (fieldImm5 w) := by
  rw [decode_of_opcode_add hop, if_pos hform]

/-! ## The bodies -/

@[simp] theorem exec_addReg (dr sr1 sr2 : Reg) (s : State) :
    exec (.addReg dr sr1 sr2) s = .next (s.define dr (s.readReg sr1 + s.readReg sr2)) := rfl

@[simp] theorem exec_addImm (dr sr1 : Reg) (imm5 : BitVec 5) (s : State) :
    exec (.addImm dr sr1 imm5) s = .next (s.define dr (s.readReg sr1 + sext 5 imm5)) := rfl

/-- The destination of a defined sum holds the sum modulo 2^16, also where it is a source: `a` and `b` were read
before the write. -/
theorem State.define_add_toNat (s : State) (dr : Reg) (a b : Word) :
    ((s.define dr (a + b)).readReg dr).toNat = (a.toNat + b.toNat) % 2 ^ 16 := by
  rw [State.define_readReg_same, BitVec.toNat_add]

/-- Settles O14: bit 5 clear selects the register form, and its body defines DR with the sum of the two registers. -/
theorem addRegisterForm : Obligations.AddRegisterForm :=
  ⟨fun _ => decode_addReg, fun dr sr1 sr2 s =>
    ⟨_, exec_addReg dr sr1 sr2 s, s.define_add_toNat dr _ _, s.define_definesOnly dr _⟩⟩

/-- Settles O15: bit 5 set selects the immediate form, and its body defines DR with the sum of the register and the
sign-extended immediate. -/
theorem addImmediateForm : Obligations.AddImmediateForm :=
  ⟨fun _ => decode_addImm, fun dr sr1 imm5 s =>
    ⟨_, exec_addImm dr sr1 imm5 s, s.define_add_toNat dr _ _, s.define_definesOnly dr _⟩⟩

end Sys2Proof.Machine
end

section
/-! The fault (`60_exceptions.md` R126): what stopping the core keeps, and RTI and RES, which do no more than that. -/

namespace Sys2Proof.Machine

/-! ## Stopping the core (R71) -/

theorem State.stop_sameMachine (s : State) (k : StopCause) : SameMachine s (s.stop k) :=
  ⟨State.readReg_congr (s.stop_gpr k), s.stop_pc k, s.stop_cond k, State.readMem_congr (s.stop_mem k)⟩

theorem State.stop_sameConsole (s : State) (k : StopCause) : SameConsole s (s.stop k) :=
  ⟨s.stop_consoleIn k, s.stop_consoleOut k, s.stop_notices k⟩

theorem step_stop (s : State) (k : StopCause) : step (s.stop k) = .next (s.stop k) :=
  step_halted (s.stop_run k)

/-! ## The bodies of the reserved opcodes -/

/-- R130: taking the fault saves nothing and goes nowhere, so it is a stop with the fault's cause. -/
theorem State.raiseFault_eq_stop (s : State) (k : StopCause) : s.raiseFault k = s.stop k := rfl

@[simp] theorem exec_rti (s : State) : exec .rti s = .next (s.stop .faultRti) :=
  congrArg Host.Outcome.next (s.raiseFault_eq_stop .faultRti)

@[simp] theorem exec_res (s : State) : exec .res s = .next (s.stop .faultRes) :=
  congrArg Host.Outcome.next (s.raiseFault_eq_stop .faultRes)

/-- Settles O40: both bodies are a stop with their cause, which writes the run state and the cause alone, and a HALTED
core stays. -/
theorem reservedOpcodesRaiseTheFault : Obligations.ReservedOpcodesRaiseTheFault := fun s =>
  ⟨⟨s.stop .faultRti, exec_rti s, s.stop_run _, s.stop_stopCause _, s.stop_sameMachine _, s.stop_hold _,
      s.stop_resetLine _, s.stop_sameConsole _, step_stop s _⟩,
    ⟨s.stop .faultRes, exec_res s, s.stop_run _, s.stop_stopCause _, s.stop_sameMachine _, s.stop_hold _,
      s.stop_resetLine _, s.stop_sameConsole _, step_stop s _⟩⟩

end Sys2Proof.Machine
end

section
/-! Encoding (`30_encoding.md`). A word is read field by field: what a field of a placed field is, that a decoded word
depends on its instruction's named bits alone, and that the encoder puts those bits back where the decoder took them. -/

namespace Sys2Proof

open BitVec

/-! ## Placed fields -/

section place

variable {n lo k m : Nat} (f : BitVec n)

theorem getLsbD_place (i : Nat) :
    (place f lo).getLsbD i = (decide (lo ≤ i) && decide (i < 16) && f.getLsbD (i - lo)) := by
  simp only [place, getLsbD_shiftLeft, getLsbD_setWidth]
  by_cases hi : i < 16
  · have hlt : i - lo < 16 := by omega
    simp [hi, hlt, ← decide_not]
  · simp [hi]

@[simp] theorem getElem_place (i : Nat) (hi : i < 16) :
    (place f lo)[i] = (decide (lo ≤ i) && f.getLsbD (i - lo)) := by
  rw [← getLsbD_eq_getElem, getLsbD_place]
  simp [hi]

@[simp] theorem extractLsb'_place_same (h : lo + n ≤ 16) : (place f lo).extractLsb' lo n = f := by
  refine eq_of_getLsbD_eq fun i hi => ?_
  have hlt : lo + i < 16 := by omega
  rw [getLsbD_extractLsb', getLsbD_place]
  simp [hi, hlt]

@[simp] theorem extractLsb'_place_of_below (h : k + m ≤ lo) : (place f lo).extractLsb' k m = 0#m := by
  refine eq_of_getLsbD_eq fun i hi => ?_
  have hlo : ¬ lo ≤ k + i := by omega
  simp [getLsbD_place, hlo]

@[simp] theorem extractLsb'_place_of_above (h : lo + n ≤ k) : (place f lo).extractLsb' k m = 0#m := by
  refine eq_of_getLsbD_eq fun i hi => ?_
  have hge : f.getLsbD (k + i - lo) = false := getLsbD_of_ge f _ (by omega)
  simp [getLsbD_place, hge]

/-- A field of a word put back where it was read is the word under the field's mask. -/
theorem place_extractLsb' (w : Word) : place (w.extractLsb' lo n) lo = w &&& place (allOnes n) lo := by
  refine eq_of_getLsbD_eq fun i hi => ?_
  rw [getLsbD_and, getLsbD_place, getLsbD_place, getLsbD_extractLsb', getLsbD_allOnes]
  by_cases hlo : lo ≤ i
  · have hadd : lo + (i - lo) = i := by omega
    simp [hlo, hadd, hi, Bool.and_comm]
  · simp [hlo]

end place

/-! ## Registers and opcodes as fields -/

@[simp] theorem Reg.ofBits_toBits (r : Reg) : Reg.ofBits r.toBits = r := by cases r <;> rfl

@[simp] theorem Reg.toBits_ofBits (b : BitVec 3) : (Reg.ofBits b).toBits = b := by revert b; decide

/-- The number of an opcode (R59). -/
def Opcode.toBits : Opcode → BitVec 4
  | .br => 0
  | .add => 1
  | .ld => 2
  | .st => 3
  | .jsr => 4
  | .and => 5
  | .ldr => 6
  | .str => 7
  | .rti => 8
  | .not => 9
  | .ldi => 10
  | .sti => 11
  | .jmp => 12
  | .res => 13
  | .lea => 14
  | .trap => 15

@[simp] theorem Opcode.toBits_ofBits (b : BitVec 4) : (Opcode.ofBits b).toBits = b := by revert b; decide

theorem Opcode.ofBits_eq_iff {b : BitVec 4} {o : Opcode} : Opcode.ofBits b = o ↔ b = o.toBits := by
  refine ⟨fun h => by rw [← h, toBits_ofBits], ?_⟩
  rintro rfl
  cases o <;> rfl

/-! ## Words that agree under a mask -/

section agrees

variable {v w M : Word} (h : v &&& M = w &&& M)
include h

theorem extractLsb'_of_agrees (k m : Nat) (hM : M.extractLsb' k m = allOnes m) :
    v.extractLsb' k m = w.extractLsb' k m := by
  have hfield := congrArg (extractLsb' k m) h
  simpa [extractLsb'_and, hM] using hfield

theorem getLsbD_of_agrees (k : Nat) (hM : M.getLsbD k = true) : v.getLsbD k = w.getLsbD k := by
  have hbit := congrArg (getLsbD · k) h
  simpa [hM] using hbit

theorem agrees_of_mask_le {N : Word} (hN : M &&& N = N) : v &&& N = w &&& N := by
  rw [← hN, ← BitVec.and_assoc, ← BitVec.and_assoc, h]

end agrees

/-! ## The decoder on the encoder's words -/

theorem decode_of_opcode_trap {w : Word} (hop : fieldOp w = 0b1111#4) : decode w = decodeTrap (fieldVect w) := by
  have htrap : Opcode.ofBits (fieldOp w) = .trap := congrArg Opcode.ofBits hop
  simp only [decode, htrap]

theorem decode_encodeTrap (v : BitVec 8) : decode (encodeTrap v) = decodeTrap v := by
  rw [decode_of_opcode_trap (by simp [fieldOp, encodeTrap, extractLsb'_or])]
  simp [encodeTrap, fieldVect, extractLsb'_or]

theorem decode_encode {i : Instr} (hi : i.wellFormed = true) : decode (encode i) = i := by
  cases i
  case br | jsr | jsrr | not | jmp | rti | res =>
    simp [encode, decode, Opcode.ofBits, fieldOp, fieldDr, fieldBase, fieldOff9, fieldOff11, extractLsb'_or]
  case addReg | andReg =>
    simp [encode, encodeOpr, decode, Opcode.ofBits, fieldOp, fieldDr, fieldBase, fieldSr2, extractLsb'_or]
  case addImm | andImm =>
    simp [encode, encodeOpi, decode, Opcode.ofBits, fieldOp, fieldDr, fieldBase, fieldImm5, extractLsb'_or]
  case ld | st | ldi | sti | lea =>
    simp [encode, encodePc9, decode, Opcode.ofBits, fieldOp, fieldDr, fieldOff9, extractLsb'_or]
  case ldr | str =>
    simp [encode, encodeBase6, decode, Opcode.ofBits, fieldOp, fieldDr, fieldBase, fieldOff6, extractLsb'_or]
  case trapGetc | trapOut | trapPuts | trapIn | trapWriteline | trapHalt => exact decode_encodeTrap _
  case trapUnlisted00 v | trapUnlisted26 v | trapUnlisted28 v | trapUnlisted30 v | trapUnlisted40 v |
      trapUnlisted80 v =>
    refine (decode_encodeTrap v).trans ?_
    revert v; decide

/-! ## The encoder on a word's own fields: the word under the mask of the bits they name -/

theorem extractLsb'_bit (w : Word) (k : Nat) : w.extractLsb' k 1 = BitVec.ofBool (w.getLsbD k) := by
  refine eq_of_getLsbD_eq fun i hi => ?_
  obtain rfl : i = 0 := by omega
  simp

section fields

variable {w : Word} {op : BitVec 4} (hop : fieldOp w = op)
include hop

theorem encodeOpr_fields (hform : w.getLsbD 5 = false) :
    encodeOpr op (fieldDr w) (fieldBase w) (fieldSr2 w) = w &&& 0xFFE7#16 := by
  have hbit : place (w.extractLsb' 5 1) 5 = 0#16 := by rw [extractLsb'_bit, hform]; rfl
  rw [← BitVec.or_zero (x := encodeOpr _ _ _ _), ← hbit, ← hop]
  simp only [encodeOpr, fieldOp, fieldDr, fieldBase, fieldSr2, Reg.toBits_ofBits, place_extractLsb',
    ← BitVec.and_or_distrib_left]
  rfl

theorem encodeOpi_fields (hform : w.getLsbD 5 = true) :
    encodeOpi op (fieldDr w) (fieldBase w) (fieldImm5 w) = w &&& 0xFFFF#16 := by
  have hbit : 0b1#1 = w.extractLsb' 5 1 := by rw [extractLsb'_bit, hform]; rfl
  simp only [encodeOpi, hbit, ← hop, fieldOp, fieldDr, fieldBase, fieldImm5, Reg.toBits_ofBits, place_extractLsb',
    ← BitVec.and_or_distrib_left]
  rfl

theorem encodePc9_fields : encodePc9 op (fieldDr w) (fieldOff9 w) = w &&& 0xFFFF#16 := by
  simp only [encodePc9, ← hop, fieldOp, fieldDr, fieldOff9, Reg.toBits_ofBits, place_extractLsb',
    ← BitVec.and_or_distrib_left]
  rfl

theorem encodeBase6_fields : encodeBase6 op (fieldDr w) (fieldBase w) (fieldOff6 w) = w &&& 0xFFFF#16 := by
  simp only [encodeBase6, ← hop, fieldOp, fieldDr, fieldBase, fieldOff6, Reg.toBits_ofBits, place_extractLsb',
    ← BitVec.and_or_distrib_left]
  rfl

end fields

section opcodes

variable {w : Word}

theorem encode_br_fields (hop : fieldOp w = 0b0000#4) :
    encode (.br (w.getLsbD 11) (w.getLsbD 10) (w.getLsbD 9) (fieldOff9 w)) = w &&& 0xFFFF#16 := by
  simp only [encode, ← hop, ← extractLsb'_bit, fieldOp, fieldOff9, place_extractLsb',
    ← BitVec.and_or_distrib_left]
  rfl

theorem encode_jsr_fields (hop : fieldOp w = 0b0100#4) (hform : w.getLsbD 11 = true) :
    encode (.jsr (fieldOff11 w)) = w &&& 0xFFFF#16 := by
  have hbit : 0b1#1 = w.extractLsb' 11 1 := by rw [extractLsb'_bit, hform]; rfl
  simp only [encode, hbit, ← hop, fieldOp, fieldOff11, place_extractLsb', ← BitVec.and_or_distrib_left]
  rfl

theorem encode_jsrr_fields (hop : fieldOp w = 0b0100#4) (hform : w.getLsbD 11 = false) :
    encode (.jsrr (fieldBase w)) = w &&& 0xF9C0#16 := by
  have hbit : place (w.extractLsb' 11 1) 11 = 0#16 := by rw [extractLsb'_bit, hform]; rfl
  rw [← BitVec.or_zero (x := encode _), ← hbit]
  simp only [encode, ← hop, fieldOp, fieldBase, Reg.toBits_ofBits, place_extractLsb', ← BitVec.and_or_distrib_left]
  rfl

theorem encode_jmp_fields (hop : fieldOp w = 0b1100#4) : encode (.jmp (fieldBase w)) = w &&& 0xF1C0#16 := by
  simp only [encode, ← hop, fieldOp, fieldBase, Reg.toBits_ofBits, place_extractLsb', ← BitVec.and_or_distrib_left]
  rfl

/-- NOT's bits 5:0 are filled with ones, whatever the word has there (R58). -/
theorem encode_not_fields (hop : fieldOp w = 0b1001#4) :
    encode (.not (fieldDr w) (fieldBase w)) = w &&& 0xFFC0#16 ||| 0x003F#16 := by
  simp only [encode, ← hop, fieldOp, fieldDr, fieldBase, Reg.toBits_ofBits, place_extractLsb',
    ← BitVec.and_or_distrib_left]
  rfl

theorem encode_trap_fields (hop : fieldOp w = 0b1111#4) : encodeTrap (fieldVect w) = w &&& 0xF0FF#16 := by
  simp only [encodeTrap, ← hop, fieldOp, fieldVect, place_extractLsb', ← BitVec.and_or_distrib_left]
  rfl

theorem place_fieldOp (w : Word) : place (fieldOp w) 12 = w &&& 0xF000#16 := place_extractLsb' w

end opcodes

theorem encode_decodeTrap (v : BitVec 8) : encode (decodeTrap v) = encodeTrap v := by
  revert v; decide

theorem usedMask_decodeTrap (v : BitVec 8) : (decodeTrap v).usedMask = 0xF0FF#16 := by
  revert v; decide

theorem agrees_of_eq {i : Instr} {w : Word} (h : encode i = w &&& i.usedMask) :
    encode i &&& i.usedMask = w &&& i.usedMask := by
  rw [h, BitVec.and_assoc, BitVec.and_self]

/-- What the encoder makes of a decoded word: its named bits, each where it was. -/
theorem encode_decode (w : Word) :
    encode (decode w) &&& (decode w).usedMask = w &&& (decode w).usedMask := by
  cases ho : Opcode.ofBits (fieldOp w)
  all_goals have hop := Opcode.ofBits_eq_iff.1 ho
  all_goals simp only [decode, ho]
  case br => exact agrees_of_eq (encode_br_fields hop)
  case ld | st | ldi | sti | lea => exact agrees_of_eq (encodePc9_fields hop)
  case add | and =>
    cases hform : w.getLsbD 5
    · exact agrees_of_eq (encodeOpr_fields hop hform)
    · exact agrees_of_eq (encodeOpi_fields hop hform)
  case ldr | str => exact agrees_of_eq (encodeBase6_fields hop)
  case trap =>
    refine agrees_of_eq ?_
    rw [encode_decodeTrap, usedMask_decodeTrap]
    exact encode_trap_fields hop
  case jsr =>
    cases hform : w.getLsbD 11
    · exact agrees_of_eq (encode_jsrr_fields hop hform)
    · exact agrees_of_eq (encode_jsr_fields hop hform)
  case jmp => exact agrees_of_eq (encode_jmp_fields hop)
  case not =>
    change encode _ &&& 0xFFC0#16 = w &&& 0xFFC0#16
    rw [encode_not_fields hop, BitVec.and_or_distrib_right, BitVec.and_assoc, BitVec.and_self]
    exact BitVec.or_zero
  case rti | res => exact agrees_of_eq ((congrArg (place · 12) hop.symm).trans (place_fieldOp w))

/-! ## The bits the decoder ignores -/

theorem Instr.usedMask_opcode (i : Instr) : i.usedMask &&& 0xF000#16 = 0xF000#16 := by
  cases i <;> simp only [usedMask] <;> decide

theorem fieldOp_of_agrees {v w : Word} {i : Instr} (h : v &&& i.usedMask = w &&& i.usedMask) :
    fieldOp v = fieldOp w :=
  extractLsb'_of_agrees (agrees_of_mask_le h i.usedMask_opcode) 12 4 (by decide)

theorem eq_of_agrees {v w : Word} (h : v &&& 0xFFFF#16 = w &&& 0xFFFF#16) : v = w := by
  have hones : 0xFFFF#16 = allOnes 16 := by decide
  rwa [hones, BitVec.and_allOnes, BitVec.and_allOnes] at h

theorem decode_congr {v w : Word} (h : v &&& (decode w).usedMask = w &&& (decode w).usedMask) :
    decode v = decode w := by
  have hv := congrArg Opcode.ofBits (fieldOp_of_agrees h)
  cases ho : Opcode.ofBits (fieldOp w)
  all_goals rw [ho] at hv; simp only [decode, ho] at h; simp only [decode, ho, hv]
  case trap =>
    rw [usedMask_decodeTrap] at h
    have hvect : fieldVect v = fieldVect w := extractLsb'_of_agrees h 0 8 (by decide)
    rw [hvect]
  all_goals simp only [Instr.usedMask] at h
  case br | ld | st | ldi | sti | lea | ldr | str => rw [eq_of_agrees h]
  case add | and =>
    cases hform : w.getLsbD 5 <;> simp only [hform, Bool.false_eq_true, if_true, if_false] at h ⊢
    · have hv : v.getLsbD 5 = false := (getLsbD_of_agrees h 5 (by decide)).trans hform
      simp only [hv, Bool.false_eq_true, if_false, fieldDr, fieldBase, fieldSr2,
        extractLsb'_of_agrees h 9 3 (by decide), extractLsb'_of_agrees h 6 3 (by decide),
        extractLsb'_of_agrees h 0 3 (by decide)]
    · rw [eq_of_agrees h, hform]; rfl
  case jsr =>
    cases hform : w.getLsbD 11 <;> simp only [hform, Bool.false_eq_true, if_true, if_false] at h ⊢
    · have hv : v.getLsbD 11 = false := (getLsbD_of_agrees h 11 (by decide)).trans hform
      simp only [hv, Bool.false_eq_true, if_false, fieldBase, extractLsb'_of_agrees h 6 3 (by decide)]
    · rw [eq_of_agrees h, hform]; rfl
  case not =>
    simp only [fieldDr, fieldBase, extractLsb'_of_agrees h 9 3 (by decide), extractLsb'_of_agrees h 6 3 (by decide)]
  case jmp => simp only [fieldBase, extractLsb'_of_agrees h 6 3 (by decide)]

/-! ## The rows of the opcode table (R67) -/

theorem decodeTrap_wellFormed (v : BitVec 8) : (decodeTrap v).wellFormed = true := by
  revert v; decide

theorem decode_wellFormed (w : Word) : (decode w).wellFormed = true := by
  cases ho : Opcode.ofBits (fieldOp w) <;> simp only [decode, ho]
  case trap => exact decodeTrap_wellFormed _
  case add | and | jsr => split <;> rfl
  all_goals rfl

theorem Instr.row_mem_opcodeTable (i : Instr) : i.row ∈ opcodeTable := by
  cases i <;> simp only [row] <;> decide

theorem Instr.row_mask_le_usedMask (i : Instr) : i.usedMask &&& i.row.mask = i.row.mask := by
  cases i <;> simp only [usedMask, row] <;> decide

theorem encode_matches_row : ∀ i : Instr, i.wellFormed = true → i.row.matchesWord (encode i) = true
  | .br n z p off9 => Laws.EncodedRow.br n z p off9
  | .addReg dr sr1 sr2 => Laws.EncodedRow.addReg dr sr1 sr2
  | .addImm dr sr1 imm5 => Laws.EncodedRow.addImm dr sr1 imm5
  | .ld dr off9 => Laws.EncodedRow.ld dr off9
  | .st sr off9 => Laws.EncodedRow.st sr off9
  | .jsr off11 => Laws.EncodedRow.jsr off11
  | .jsrr baseR => Laws.EncodedRow.jsrr baseR
  | .andReg dr sr1 sr2 => Laws.EncodedRow.andReg dr sr1 sr2
  | .andImm dr sr1 imm5 => Laws.EncodedRow.andImm dr sr1 imm5
  | .ldr dr baseR off6 => Laws.EncodedRow.ldr dr baseR off6
  | .str sr baseR off6 => Laws.EncodedRow.str sr baseR off6
  | .rti => Laws.EncodedRow.rti
  | .not dr sr => Laws.EncodedRow.not dr sr
  | .ldi dr off9 => Laws.EncodedRow.ldi dr off9
  | .sti sr off9 => Laws.EncodedRow.sti sr off9
  | .jmp baseR => Laws.EncodedRow.jmp baseR
  | .res => Laws.EncodedRow.res
  | .lea dr off9 => Laws.EncodedRow.lea dr off9
  | .trapGetc => Laws.EncodedRow.trapGetc
  | .trapOut => Laws.EncodedRow.trapOut
  | .trapPuts => Laws.EncodedRow.trapPuts
  | .trapIn => Laws.EncodedRow.trapIn
  | .trapWriteline => Laws.EncodedRow.trapWriteline
  | .trapHalt => Laws.EncodedRow.trapHalt
  | .trapUnlisted00 vect => Laws.EncodedRow.trapUnlisted00 vect
  | .trapUnlisted26 vect => Laws.EncodedRow.trapUnlisted26 vect
  | .trapUnlisted28 vect => Laws.EncodedRow.trapUnlisted28 vect
  | .trapUnlisted30 vect => Laws.EncodedRow.trapUnlisted30 vect
  | .trapUnlisted40 vect => Laws.EncodedRow.trapUnlisted40 vect
  | .trapUnlisted80 vect => Laws.EncodedRow.trapUnlisted80 vect

theorem TableRow.matchesWord_iff {r : TableRow} {w : Word} : r.matchesWord w = true ↔ w &&& r.mask = r.bits :=
  beq_iff_eq

/-- A word lies in the row of what it decodes to: it has the encoder's bits wherever the row's mask looks. -/
theorem decode_row_matches (w : Word) : (decode w).row.matchesWord w = true := by
  have hrow := TableRow.matchesWord_iff.1 (encode_matches_row (decode w) (decode_wellFormed w))
  have hbits := agrees_of_mask_le (encode_decode w) (decode w).row_mask_le_usedMask
  rw [TableRow.matchesWord_iff, ← hbits, hrow]

/-- Any two rows of the table disagree in a bit that both fix. -/
theorem opcodeTable_disjoint :
    ∀ r ∈ opcodeTable, ∀ q ∈ opcodeTable, r.bits &&& q.mask = q.bits &&& r.mask → r = q := by
  decide

theorem row_unique {r q : TableRow} (hr : r ∈ opcodeTable) (hq : q ∈ opcodeTable) {w : Word}
    (hrw : r.matchesWord w = true) (hqw : q.matchesWord w = true) : r = q := by
  rw [TableRow.matchesWord_iff] at hrw hqw
  refine opcodeTable_disjoint r hr q hq ?_
  rw [← hrw, ← hqw, BitVec.and_assoc, BitVec.and_assoc, BitVec.and_comm r.mask]

/-! ## The statements -/

/-- Settles O1: the fields of a placed word are the fields placed. -/
theorem decodeOfEncodeIsTheInstruction : Obligations.DecodeOfEncodeIsTheInstruction := fun _ => decode_encode

/-- Settles O2: every format puts a field back under the mask it was read with. -/
theorem encodeOfDecodeKeepsNamedBits : Obligations.EncodeOfDecodeKeepsNamedBits := encode_decode

/-- Settles O3: the decoder reads the opcode and the fields of its format, all named bits. -/
theorem unnamedBitsAreIgnored : Obligations.UnnamedBitsAreIgnored := fun _ _ h => decode_congr h.symm

/-- Settles O4: a word lies in the row of its instruction, and rows are disjoint. -/
theorem everyWordMatchesExactlyItsRow : Obligations.EveryWordMatchesExactlyItsRow := fun w =>
  ⟨decode_wellFormed w, (decode w).row_mem_opcodeTable, fun _ hr =>
    ⟨fun hrw => row_unique hr (decode w).row_mem_opcodeTable hrw (decode_row_matches w),
      fun e => e ▸ decode_row_matches w⟩⟩

/-- Settles O5: fifteen closed words. -/
theorem writtenOutWordsDecode : Obligations.WrittenOutWordsDecode := by
  unfold Obligations.WrittenOutWordsDecode
  decide

end Sys2Proof
end

section
/-! What a step can do, as two inductive predicates: the effect of a routine of TRAP, and the effect of an instruction's
body. The whole-machine rules below are read off their constructors. -/

namespace Sys2Proof.Machine

/-! ## The routines of TRAP (`44_trap_and_reserved.md` R110 to R116) -/

@[simp] theorem State.consolePutAll_nil (s : State) : s.consolePutAll [] = s := by simp [State.consolePutAll]

/-- What a routine, or a further step inside one, can do: send characters and hold or not; or, where `reads` allows it,
take the first unread character into R0, with or without an echo. -/
inductive RoutineEffect (reads : Prop) (s : State) : State → Prop
  | sends (cs : List Byte) (h : Hold) : RoutineEffect reads s ((s.consolePutAll cs).setHold h)
  | takes (c : Byte) (rest echo : List Byte) : reads → s.consoleIn = c :: rest →
      RoutineEffect reads s ((((s.setConsoleIn rest).setHold .idle).consolePutAll echo).define .r0 (zext8 c))

section routines

variable {reads : Prop} {s t : State}

theorem RoutineEffect.holds (h : Hold) : RoutineEffect reads s (s.setHold h) := by
  simpa using RoutineEffect.sends (reads := reads) (s := s) [] h

theorem RoutineEffect.stays : RoutineEffect reads s s := RoutineEffect.holds s.hold

theorem getcRoutine_effect (hr : reads) : RoutineEffect reads s (getcRoutine s) := by
  rcases getcRoutine_cases s with ⟨_, e⟩ | ⟨c, rest, hin, e⟩ <;> rw [e]
  · exact .holds .getc
  · simpa using RoutineEffect.takes c rest [] hr hin

theorem inRoutine_effect (hr : reads) : RoutineEffect reads s (inRoutine s) := by
  rcases inRoutine_cases s with ⟨_, e⟩ | ⟨c, rest, hin, e⟩ <;> rw [e]
  · exact .holds .inEcho
  · exact .takes c rest [c] hr hin

theorem putsRoutine_effect : RoutineEffect reads s (putsRoutine s) := by
  rcases putsRoutine_cases s with ⟨cs, _, e⟩ | ⟨_, e⟩ <;> rw [e]
  · exact .sends cs s.hold
  · exact .holds _

theorem writeLineRoutine_effect : RoutineEffect reads s (writeLineRoutine s) := .sends _ _

theorem putsResume_effect (a : Word) : RoutineEffect reads s (putsResume a s) := by
  unfold putsResume
  split
  · exact .holds .idle
  · exact .sends [lowByte (s.readMem a)] _

theorem writeLineResume_effect (k : Nat) : RoutineEffect reads s (writeLineResume k s) := by
  unfold writeLineResume
  split
  · exact .holds .idle
  · next c _ => exact .sends [c k] _

theorem resume_effect : RoutineEffect (s.hold = .getc ∨ s.hold = .inEcho) s (resume s) := by
  rcases resume_cases s with ⟨_, e⟩ | ⟨h, e⟩ | ⟨h, e⟩ | ⟨a, _, e⟩ | ⟨k, _, e⟩ <;> rw [e]
  · exact .stays
  · exact getcRoutine_effect (.inl h)
  · exact inRoutine_effect (.inr h)
  · exact putsResume_effect a
  · exact writeLineResume_effect k

/-! No routine writes memory, PC, the run state, the stop cause or the `reset` line (R109). -/

theorem RoutineEffect.mem (h : RoutineEffect reads s t) : t.mem = s.mem := by cases h <;> rfl
theorem RoutineEffect.pc (h : RoutineEffect reads s t) : t.pc = s.pc := by cases h <;> rfl
theorem RoutineEffect.run (h : RoutineEffect reads s t) : t.run = s.run := by cases h <;> rfl
theorem RoutineEffect.stopCause (h : RoutineEffect reads s t) : t.stopCause = s.stopCause := by cases h <;> rfl
theorem RoutineEffect.resetLine (h : RoutineEffect reads s t) : t.resetLine = s.resetLine := by cases h <;> rfl

theorem RoutineEffect.readReg (h : RoutineEffect reads s t) (r : Reg) :
    t.readReg r = s.readReg r ∨ reads ∧ r = .r0 := by
  cases h with
  | sends cs h => exact .inl rfl
  | takes c rest echo hr hin =>
    by_cases hr0 : r = .r0
    · exact .inr ⟨hr, hr0⟩
    · exact .inl (State.define_readReg_ne _ _ _ hr0)

theorem RoutineEffect.consoleIn (h : RoutineEffect reads s t) :
    t.consoleIn = s.consoleIn ∨ reads ∧ ∃ c, s.consoleIn = c :: t.consoleIn := by
  cases h with
  | sends cs h => exact .inl rfl
  | takes c rest echo hr hin => exact .inr ⟨hr, c, hin⟩

end routines

/-! ## The bodies of the instructions (R75) -/

/-- The cause with which an instruction stops the core, if it does (R71). -/
def stopOf : Instr → Option StopCause
  | .trapHalt => some .haltTrap
  | .rti => some .faultRti
  | .res => some .faultRes
  | _ => none

/-- What the body of an instruction can do to the state after the fetch. -/
inductive BodyEffect (i : Instr) (s : State) : State → Prop
  | defines (dr : Reg) (v : Word) : stopOf i = none → destination i = some dr → BodyEffect i s (s.define dr v)
  | stores (a : Word) (r : Reg) : stopOf i = none → storeAddress i s = some a → storeSource i = some r →
      BodyEffect i s (s.writeMem a (s.readReg r))
  | jumps (v : Word) : stopOf i = none → writesPc i = true → BodyEffect i s (s.setPc v)
  | links (v : Word) : stopOf i = none → writesPc i = true → destination i = some .r7 →
      BodyEffect i s (s.link.setPc v)
  | routine (t : State) : stopOf i = none → RoutineEffect (i = .trapGetc ∨ i = .trapIn) s t → BodyEffect i s t
  | stops (k : StopCause) (ns : List Notice) : stopOf i = some k → BodyEffect i s ({ s with notices := ns }.stop k)

theorem exec_effect {i : Instr} {s t : State} (h : exec i s = .next t) : BodyEffect i s t := by
  cases i
  case br n z p off9 =>
    simp only [exec, execBr] at h
    split at h <;> cases h
    · exact .jumps _ rfl rfl
    · exact .routine _ rfl .stays
  case addReg | addImm | andReg | andImm | not | ld | ldi | ldr | lea => cases h; exact .defines _ _ rfl rfl
  case st | sti | str => cases h; exact .stores _ _ rfl rfl rfl
  case jmp => cases h; exact .jumps _ rfl rfl
  case jsr | jsrr => cases h; exact .links _ rfl rfl rfl
  case trapGetc => cases h; exact .routine _ rfl (getcRoutine_effect (.inl rfl))
  case trapIn => cases h; exact .routine _ rfl (inRoutine_effect (.inr rfl))
  case trapOut => cases h; exact .routine _ rfl (.sends [_] s.hold)
  case trapPuts => cases h; exact .routine _ rfl putsRoutine_effect
  case trapWriteline => cases h; exact .routine _ rfl writeLineRoutine_effect
  case trapHalt => cases h; exact .stops _ _ rfl
  case rti | res => cases h; exact .stops _ s.notices rfl
  all_goals cases h; exact .routine _ rfl .stays

/-! ## The step -/

theorem State.waiting_iff (s : State) :
    s.waiting = true ↔ s.resetLine = false ∧ s.run = .running ∧ (s.hold = .getc ∨ s.hold = .inEcho) := by
  simp [State.waiting, and_assoc]

/-- Everything a step can do: where the core does not fetch it stays or goes on inside a routine, which reads only where
the core waits; where it fetches it runs the body of the fetched instruction. -/
theorem step_effect {s t : State} (h : step s = .next t) :
    (s.ready = false ∧ RoutineEffect (s.waiting = true) s t) ∨
    (s.ready = true ∧ BodyEffect (decode (s.readMem s.pc)) s.advance t) := by
  rcases step_cases h with ⟨hstop, rfl⟩ | ⟨hl, hr, hh, rfl⟩ | ⟨hl, hr, hh, hexec⟩
  · refine .inl ⟨?_, .stays⟩
    rcases hstop with e | e <;> simp [State.ready, e]
  · have hw : (s.hold = .getc ∨ s.hold = .inEcho) = (s.waiting = true) := by simp [s.waiting_iff, hl, hr]
    exact .inl ⟨by simp [State.ready, hh], hw ▸ resume_effect⟩
  · exact .inr ⟨s.ready_iff.2 ⟨hl, hr, hh⟩, exec_effect hexec⟩

/-! ## What a body leaves alone -/

section bodies

variable {i : Instr} {s t : State} (h : BodyEffect i s t)
include h

theorem BodyEffect.readMem {a : Word} (ha : storeAddress i s ≠ some a) : t.readMem a = s.readMem a := by
  cases h with
  | stores b r _ hb _ => exact s.readMem_writeMem_ne _ fun e => ha (e ▸ hb)
  | routine t _ he => exact State.readMem_congr he.mem a
  | _ => rfl

theorem BodyEffect.mem_wf (hs : s.mem.wf = true) : t.mem.wf = true := by
  cases h with
  | stores a r => exact State.wf_writeMem _ _ hs
  | routine t _ he => rwa [he.mem]
  | _ => exact hs

theorem BodyEffect.readReg {r : Reg} (hr : destination i ≠ some r) : t.readReg r = s.readReg r := by
  cases h with
  | defines dr v _ hd => exact s.define_readReg_ne dr v fun e => hr (e ▸ hd)
  | links v _ _ hd => exact s.readReg_writeReg_ne _ fun e => hr (e ▸ hd)
  | routine t _ he =>
    refine (he.readReg r).resolve_right ?_
    rintro ⟨rfl | rfl, rfl⟩ <;> exact hr rfl
  | _ => rfl

theorem BodyEffect.pc (hi : writesPc i = false) : t.pc = s.pc := by
  cases h with
  | jumps v _ hw => rw [hi] at hw; cases hw
  | links v _ hw => rw [hi] at hw; cases hw
  | routine t _ he => exact he.pc
  | _ => rfl

theorem BodyEffect.consoleIn :
    t.consoleIn = s.consoleIn ∨ (i = .trapGetc ∨ i = .trapIn) ∧ ∃ c, s.consoleIn = c :: t.consoleIn := by
  cases h with
  | routine t _ he => exact he.consoleIn
  | _ => exact .inl rfl

theorem BodyEffect.resetLine : t.resetLine = s.resetLine := by
  cases h with
  | routine t _ he => exact he.resetLine
  | _ => rfl

/-- An instruction that does not stop the core leaves run state and cause alone. -/
theorem BodyEffect.control_of_goes (hi : stopOf i = none) : t.run = s.run ∧ t.stopCause = s.stopCause := by
  cases h with
  | stops k ns hk => rw [hi] at hk; cases hk
  | routine t _ he => exact ⟨he.run, he.stopCause⟩
  | _ => exact ⟨rfl, rfl⟩

/-- An instruction that stops the core changes nothing but run state, cause and notices. -/
theorem BodyEffect.eq_stop {k : StopCause} (hi : stopOf i = some k) :
    ∃ ns : List Notice, t = { s with notices := ns }.stop k := by
  cases h with
  | stops k' ns hk => rw [hi] at hk; cases hk; exact ⟨ns, rfl⟩
  | defines _ _ hn | stores _ _ hn | jumps _ hn | links _ hn | routine _ hn => rw [hi] at hn; cases hn

end bodies

/-! ## Whole-machine rules -/

/-- Settles O47: no routine writes memory, and of the bodies only a store does, at its own address. -/
theorem onlyStoresChangeMemory : Obligations.OnlyStoresChangeMemory := by
  intro s t h a ha
  rcases step_effect h with ⟨_, he⟩ | ⟨hready, he⟩
  · exact State.readMem_congr he.mem a
  · exact he.readMem fun e => ha ⟨hready, e⟩

/-- Settles O48: a routine writes R0 where it reads a character, a body the destination of its instruction. -/
theorem onlyTheDestinationChanges : Obligations.OnlyTheDestinationChanges := by
  intro s t r h hne
  rcases step_effect h with ⟨_, he⟩ | ⟨hready, he⟩
  · exact .inr ((he.readReg r).resolve_left hne)
  · exact .inl ⟨hready, by_contra fun hd => hne (he.readReg hd)⟩

/-- Settles O49, from what `resume` and `exec` do to COND. -/
theorem onlyListedInstructionsChangeCond : Obligations.OnlyListedInstructionsChangeCond := by
  intro s t h hne
  rcases step_cases h with ⟨_, rfl⟩ | ⟨hl, hr, _, rfl⟩ | ⟨hl, hr, hh, hexec⟩
  · exact absurd rfl hne
  · obtain ⟨hwait, _⟩ := (resume_cond s).resolve_left hne
    exact .inr (s.waiting_iff.2 ⟨hl, hr, hwait⟩)
  · obtain ⟨hsets, _⟩ := (exec_cond hexec).resolve_left hne
    exact .inl ⟨s.ready_iff.2 ⟨hl, hr, hh⟩, hsets⟩

/-- Settles O50: the fetch adds one, and no routine and no other body writes PC. -/
theorem pcAdvancesByOneOtherwise : Obligations.PcAdvancesByOneOtherwise := by
  intro s t h
  rcases step_effect h with ⟨hready, he⟩ | ⟨hready, he⟩ <;> rw [hready]
  · exact ⟨nofun, fun _ => he.pc⟩
  · exact ⟨fun _ hw => he.pc hw, nofun⟩

/-- Settles O53: a routine takes a character only where it may read one. -/
theorem inputIsConsumedInOrder : Obligations.InputIsConsumedInOrder := by
  intro s t h
  rcases step_effect h with ⟨_, he⟩ | ⟨hready, he⟩
  · exact he.consoleIn.imp_right fun ⟨hw, hc⟩ => ⟨hc, .inr hw⟩
  · exact he.consoleIn.imp_right fun ⟨hi, hc⟩ => ⟨hc, .inl ⟨hready, hi⟩⟩

/-- Settles O56: neither a routine nor a body writes the line. -/
theorem noStepDrivesTheResetLine : Obligations.NoStepDrivesTheResetLine := by
  intro s t h
  rcases step_effect h with ⟨_, he⟩ | ⟨_, he⟩ <;> exact he.resetLine

end Sys2Proof.Machine
end

section
/-! The run state (`40_execution_cycle.md` R71, R72; `60_exceptions.md` R124) and the legal states. -/

namespace Sys2Proof.Machine

/-! ## The words that stop the core -/

theorem stopOf_decodeTrap (v : BitVec 8) :
    stopOf (decodeTrap v) = if v = 0x25#8 then some .haltTrap else none := by
  revert v; decide

/-- The words of R71 are those whose instruction stops the core with the cause R71 names. -/
theorem stopOf_decode_iff (w : Word) :
    (stopOf (decode w) = some .haltTrap ↔ haltWord w) ∧ (stopOf (decode w) = some .faultRti ↔ rtiWord w) ∧
      (stopOf (decode w) = some .faultRes ↔ resWord w) := by
  cases ho : Opcode.ofBits (fieldOp w)
  all_goals
    have hop : w.extractLsb' 12 4 = _ := Opcode.ofBits_eq_iff.1 ho
    simp only [haltWord, rtiWord, resWord, hop, decode, ho]
  case trap => simp [stopOf_decodeTrap, fieldVect, Opcode.toBits]
  case add | and | jsr => split <;> simp [stopOf, Opcode.toBits]
  all_goals simp [stopOf, Opcode.toBits]

theorem stopOf_cases {i : Instr} {k : StopCause} (h : stopOf i = some k) :
    k = .haltTrap ∨ k = .faultRti ∨ k = .faultRes := by
  cases i
  case trapHalt | rti | res => cases h; decide
  all_goals cases h

theorem stopOf_decode_eq_none {w : Word} (hhalt : ¬ haltWord w) (hrti : ¬ rtiWord w) (hres : ¬ resWord w) :
    stopOf (decode w) = none := by
  obtain ⟨ihalt, irti, ires⟩ := stopOf_decode_iff w
  cases hs : stopOf (decode w) with
  | none => rfl
  | some k =>
    rcases stopOf_cases hs with rfl | rfl | rfl
    · exact absurd (ihalt.1 hs) hhalt
    · exact absurd (irti.1 hs) hrti
    · exact absurd (ires.1 hs) hres

theorem BodyEffect.run_of_stops {i : Instr} {s t : State} (h : BodyEffect i s t) {k : StopCause}
    (hi : stopOf i = some k) : t.run = .halted ∧ t.stopCause = k := by
  obtain ⟨ns, rfl⟩ := h.eq_stop hi
  exact ⟨rfl, rfl⟩

/-- Settles O8: a step that does not fetch is the effect of a routine; one that fetches stops the core exactly for the
three kinds of words. -/
theorem runStateTransitions : Obligations.RunStateTransitions := by
  refine ⟨⟨rfl, rfl, rfl⟩, fun _ => ⟨rfl, rfl, rfl⟩, fun s t h => ?_⟩
  obtain ⟨ihalt, irti, ires⟩ := stopOf_decode_iff (s.readMem s.pc)
  rcases step_effect h with ⟨hready, he⟩ | ⟨hready, he⟩
  · rw [hready]
    exact ⟨nofun, nofun, nofun, nofun, fun _ => ⟨he.run, he.stopCause⟩⟩
  · obtain ⟨_, hrun, _⟩ := s.ready_iff.1 hready
    rw [hready]
    refine ⟨fun _ hw => he.run_of_stops (ihalt.2 hw), fun _ hw => he.run_of_stops (irti.2 hw),
      fun _ hw => he.run_of_stops (ires.2 hw), fun _ hhalt hrti hres => ?_, nofun⟩
    exact (he.control_of_goes (stopOf_decode_eq_none hhalt hrti hres)).imp_left (·.trans hrun)

/-- Settles O41: only an instruction that stops the core gives a cause, and it leaves memory and the incremented PC. -/
theorem faultingWordIsBehindThePc : Obligations.FaultingWordIsBehindThePc := by
  intro s t hready hnone h
  obtain ⟨_, irti, ires⟩ := stopOf_decode_iff (s.readMem s.pc)
  rcases step_effect h with ⟨hnr, _⟩ | ⟨_, he⟩
  · rw [hready] at hnr; cases hnr
  cases hs : stopOf (decode (s.readMem s.pc)) with
  | none =>
    obtain ⟨_, hcause⟩ := he.control_of_goes hs
    rw [hcause, State.advance_stopCause, hnone]
    exact ⟨nofun, nofun⟩
  | some k =>
    obtain ⟨ns, rfl⟩ := he.eq_stop hs
    have hback : s.pc + 1 - 1 = s.pc := BitVec.add_sub_cancel _ _
    change (k = .faultRti → rtiWord (s.readMem (s.pc + 1 - 1)) ∧ s.pc + 1 - 1 = s.pc) ∧
      (k = .faultRes → resWord (s.readMem (s.pc + 1 - 1)) ∧ s.pc + 1 - 1 = s.pc)
    rw [hback]
    exact ⟨fun hk => ⟨irti.1 (hk ▸ hs), rfl⟩, fun hk => ⟨ires.1 (hk ▸ hs), rfl⟩⟩

/-! ## Legal states -/

/-- The clauses of a legal state, `reset` being released. -/
theorem State.legal_iff_of_released {s : State} (h : s.resetLine = false) :
    s.legal = true ↔ s.mem.wf = true ∧ condLegal s.cond = true ∧
      (s.run = .running ↔ s.stopCause = .none) ∧ (s.hold = .idle ∨ s.run = .running) := by
  simp [State.legal, State.causeLegal, State.holdLegal, State.resetLegal, h, and_assoc]

/-- Settles O45: a step under `reset` or in HALTED stays; every other step starts from a RUNNING core without a stop
cause, and either stays RUNNING or stops, not holding, with a cause. -/
theorem everyStepKeepsTheStateLegal : Obligations.EveryStepKeepsTheStateLegal := by
  intro s t hs h
  rcases step_cases h with ⟨_, rfl⟩ | ⟨hl, hrun, _, rfl⟩ | ⟨hl, hrun, hhold, hexec⟩
  · exact hs
  · obtain ⟨hmem, hcond, hcause, _⟩ := (State.legal_iff_of_released hl).1 hs
    have he := resume_effect (s := s)
    refine (State.legal_iff_of_released (he.resetLine.trans hl)).2
      ⟨he.mem ▸ hmem, step_condLegal hcond h, ?_, .inr (he.run.trans hrun)⟩
    rw [he.run, he.stopCause]; exact hcause
  · obtain ⟨hmem, hcond, hcause, _⟩ := (State.legal_iff_of_released hl).1 hs
    have he := exec_effect hexec
    refine (State.legal_iff_of_released (he.resetLine.trans hl)).2
      ⟨he.mem_wf hmem, step_condLegal hcond h, ?_⟩
    cases hi : stopOf (decode s.fetchWord) with
    | none =>
      obtain ⟨krun, kcause⟩ := he.control_of_goes hi
      rw [krun, kcause]; exact ⟨hcause, .inr hrun⟩
    | some k =>
      obtain ⟨ns, rfl⟩ := he.eq_stop hi
      have hk : k ≠ .none := by rcases stopOf_cases hi with rfl | rfl | rfl <;> decide
      exact ⟨⟨nofun, fun e => absurd e hk⟩, .inl hhold⟩

theorem State.assertReset_legal {s : State} (h : s.mem.wf = true) : s.assertReset.legal = true := by
  simp [State.legal, h, State.causeLegal, State.holdLegal, State.resetLegal, State.assertReset_atReset]
  decide

theorem State.releaseReset_legal {s : State} (h : s.legal = true) : s.releaseReset.legal = true := by
  obtain ⟨hrest, _⟩ := (Bool.and_eq_true _ _).mp h
  exact (Bool.and_eq_true _ _).mpr ⟨hrest, rfl⟩

theorem State.supply_legal {s : State} (h : s.legal = true) (cs : List Byte) : (s.supply cs).legal = true := h

theorem State.legal_mem_wf {s : State} (h : s.legal = true) : s.mem.wf = true := by
  simp only [State.legal, Bool.and_eq_true, and_assoc] at h
  obtain ⟨hm, _⟩ := h
  exact hm

/-- Changing memory alone keeps a state legal, where the new memory is canonical. -/
theorem State.legal_of_mem {s : State} (h : s.legal = true) {m : Memory} (hm : m.wf = true) :
    State.legal { s with mem := m } = true := by
  simp only [State.legal, Bool.and_eq_true, and_assoc] at h ⊢
  obtain ⟨_, hrest⟩ := h
  exact ⟨hm, hrest⟩

/-- Settles O46: the reset values are legal, and the clauses for the line hold under `reset` and after it. -/
theorem resetStateIsLegal : Obligations.ResetStateIsLegal :=
  ⟨by decide, fun _ h => ⟨State.assertReset_legal h, State.releaseReset_legal (State.assertReset_legal h)⟩⟩

/-- Settles O59: a move of the host brings reset values or changes memory, console input or the line alone. -/
theorem hostMovesKeepTheStateLegal : Obligations.HostMovesKeepTheStateLegal := by
  intro s hs
  have hmem := State.legal_mem_wf hs
  have hreset := State.assertReset_legal hmem
  refine ⟨hreset, State.releaseReset_legal hs, State.supply_legal hs, fun a v t ht => ?_, fun images t ht => ?_⟩
  · obtain ⟨_, rfl⟩ := State.hostWrite_eq_some.1 ht
    exact State.legal_of_mem hs (State.wf_writeMem a v hmem)
  · rcases ht with ht | ht
    · obtain ⟨_, m, hm, rfl⟩ := State.load_eq_some.1 ht
      exact State.legal_of_mem hs (loadImages_wf hmem hm)
    · obtain ⟨m, hm, rfl⟩ := State.boot_eq_some.1 ht
      exact State.legal_of_mem (State.releaseReset_legal hreset) (loadImages_wf hmem hm)

end Sys2Proof.Machine
end

section
/-! The step as a whole, HALTED, and `reset` with what the host does (`40_execution_cycle.md` R72,
`70_reset_and_hazards.md` R141, R144). -/

namespace Sys2Proof.Machine

/-! ## Steps that stay, and the first step after `reset` -/

/-- Settles O9: by the three conditions the step looks at. -/
theorem everyStepHasANextState : Obligations.EveryStepHasANextState := by
  intro s
  by_cases hl : s.resetLine = true
  · exact ⟨s, step_resetLine hl⟩
  cases hr : s.run with
  | halted => exact ⟨s, step_halted hr⟩
  | running =>
    by_cases hh : s.hold = .idle
    · obtain ⟨t, ht⟩ := exec_next (decode (s.readMem s.pc)) s.advance
      exact ⟨t, (step_of_ready (s.ready_iff.2 ⟨by simpa using hl, hr, hh⟩)).trans ht⟩
    · exact ⟨resume s, step_hold (by simpa using hl) hr hh⟩

theorem stepTxns_resetLine {s : State} (h : s.resetLine = true) : stepTxns s = [] := by simp [stepTxns, h]

theorem stepTxns_halted {s : State} (h : s.run = .halted) : stepTxns s = [] := by simp [stepTxns, h]

theorem inspect_of_inspectable {s : State} (h : s.run = .halted ∨ s.resetLine = true) :
    (∀ k : Slot, s.inspectSlot k = some (s.readSlot k)) ∧ ∀ a : Word, s.inspectCell a = some (s.readMem a) := by
  have hi : s.inspectable = true := s.inspectable_iff.2 h
  exact ⟨fun _ => if_pos hi, fun _ => if_pos hi⟩

/-- Settles O7: a HALTED core stays, makes no transaction and may be read. -/
theorem haltedCoreTakesNoStep : Obligations.HaltedCoreTakesNoStep := by
  intro s h
  obtain ⟨hslot, hcell⟩ := inspect_of_inspectable (.inl h)
  exact ⟨step_halted h, steps_of_stay (step_halted h), stepTxns_halted h, hslot, hcell, rfl⟩

/-- Settles O57: reading asks for `inspectable`, writing for the line. -/
theorem hostReachesAStoppedOrResetCoreAlone : Obligations.HostReachesAStoppedOrResetCoreAlone := by
  refine fun s => ⟨inspect_of_inspectable, fun h => ?_, fun hl a v => ?_, fun hl a v => ?_⟩
  · have hi : ¬ s.inspectable = true := fun hi => h (s.inspectable_iff.1 hi)
    exact ⟨fun _ => if_neg hi, fun _ => if_neg hi⟩
  · exact ⟨_, State.hostWrite_eq_some.2 ⟨hl, rfl⟩, s.writeMem_storesOnly a v⟩
  · simp [State.hostWrite, hl]

theorem State.pc_of_atReset {s : State} (h : s.atReset = true) : s.pc = 0x3000#16 := by
  simp only [State.atReset, Bool.and_eq_true, beq_iff_eq, and_assoc] at h
  obtain ⟨_, hpc, _⟩ := h
  exact hpc

theorem State.ready_of_atReset {s : State} (h : s.atReset = true) (hl : s.resetLine = false) : s.ready = true := by
  simp only [State.atReset, Bool.and_eq_true, beq_iff_eq, and_assoc] at h
  obtain ⟨_, _, _, hrun, _, hhold⟩ := h
  exact s.ready_iff.2 ⟨hl, hrun, hhold⟩

/-- R141: the first step of a core at reset is that of the cell `0x3000`. -/
theorem step_of_atReset {s : State} (h : s.atReset = true) (hl : s.resetLine = false) :
    step s = exec (decode (s.readMem 0x3000#16)) (s.setPc 0x3001#16) := by
  rw [step_of_ready (s.ready_of_atReset h hl), State.advance, s.pc_of_atReset h]
  rfl

/-- Settles O55: the step under `reset` stays, asserting and releasing are field updates, and a released core at reset
fetches. -/
theorem resetHeldAssertedHoldsTheCore : Obligations.ResetHeldAssertedHoldsTheCore :=
  ⟨fun _ h => ⟨stepTxns_resetLine h, steps_of_stay (step_resetLine h)⟩,
    fun s => ⟨rfl, s.assertReset_atReset, s.assertReset_readReg, rfl, ⟨rfl, rfl, rfl⟩⟩,
    fun _ => ⟨rfl, ⟨fun _ => rfl, rfl, rfl, fun _ => rfl⟩, rfl, rfl, rfl, ⟨rfl, rfl, rfl⟩⟩,
    fun s _ h => step_of_atReset (s := s.releaseReset) h rfl⟩

/-- Settles O42: reset writes these fields and keeps the others. -/
theorem resetValues : Obligations.ResetValues :=
  ⟨fun s => ⟨s.applyReset_readReg, rfl, rfl, rfl, rfl, rfl, rfl, rfl, ⟨rfl, rfl, rfl⟩⟩,
    fun r => by cases r <;> rfl, rfl, rfl, rfl, rfl, rfl, rfl⟩

/-- Settles O58: boot is a reset with the loaded memory, or none. -/
theorem bootStartsOnlyALoadedCore : Obligations.BootStartsOnlyALoadedCore := by
  refine ⟨fun s images m hm => ?_, fun s images hm => ?_, fun s images hl => ?_⟩
  · refine ⟨_, State.boot_eq_some.2 ⟨m, hm, rfl⟩, rfl, s.assertReset_atReset, rfl, ⟨rfl, rfl, rfl⟩, ?_⟩
    exact step_of_atReset s.assertReset_atReset rfl
  · refine Option.eq_none_iff_forall_ne_some.2 fun t ht => ?_
    obtain ⟨m, hm', _⟩ := State.boot_eq_some.1 ht
    exact absurd hm' (by simp [hm])
  · simp [State.load, hl]

end Sys2Proof.Machine
end

section
/-! The slots of the register file (`10_state.md` R12, R13). -/

namespace Sys2Proof.Machine

/-- The slot with a number (R12). -/
def Slot.ofIndex : Nat → Slot
  | 0 => .gpr .r0
  | 1 => .gpr .r1
  | 2 => .gpr .r2
  | 3 => .gpr .r3
  | 4 => .gpr .r4
  | 5 => .gpr .r5
  | 6 => .gpr .r6
  | 7 => .gpr .r7
  | 8 => .pc
  | _ => .cond

theorem Slot.ofIndex_index : Function.LeftInverse Slot.ofIndex Slot.index
  | .gpr r => by cases r <;> rfl
  | .pc => rfl
  | .cond => rfl

theorem Slot.index_lt : ∀ k : Slot, k.index < 10
  | .gpr r => by cases r <;> decide
  | .pc => by decide
  | .cond => by decide

theorem State.readSlot_writeSlot_same (s : State) (k : Slot) (v : Word) : (s.writeSlot k v).readSlot k = v := by
  cases k with
  | gpr r => exact s.readReg_writeReg_same r v
  | _ => rfl

theorem State.readSlot_writeSlot_ne (s : State) {j k : Slot} (v : Word) (h : j ≠ k) :
    (s.writeSlot k v).readSlot j = s.readSlot j := by
  cases k with
  | gpr r =>
    cases j with
    | gpr q => exact s.readReg_writeReg_ne v fun e => h (e ▸ rfl)
    | _ => rfl
  | pc =>
    cases j with
    | pc => exact absurd rfl h
    | _ => rfl
  | cond =>
    cases j with
    | cond => exact absurd rfl h
    | _ => rfl

theorem State.writeSlot_frame (s : State) (k : Slot) (v : Word) :
    SameMemory s (s.writeSlot k v) ∧ SameControl s (s.writeSlot k v) ∧ SameConsole s (s.writeSlot k v) := by
  cases k <;> exact ⟨fun _ => rfl, ⟨rfl, rfl, rfl, rfl⟩, ⟨rfl, rfl, rfl⟩⟩

/-- Settles O54: the numbers have an inverse, and a slot is one field of the state. -/
theorem slotsKeepTheContract : Obligations.SlotsKeepTheContract :=
  ⟨fun _ _ h => Slot.ofIndex_index.injective h, Slot.index_lt, fun s k v =>
    ⟨s.readSlot_writeSlot_same k v, fun _ h => s.readSlot_writeSlot_ne v h, s.writeSlot_frame k v⟩⟩

end Sys2Proof.Machine
end

section
/-! AND, NOT, LEA, the loads and the stores (`41_operate.md`, `42_load_store.md`): each body is one `define` or one
store. -/

namespace Sys2Proof.Machine

variable (dr sr sr1 sr2 baseR : Reg) (imm5 : BitVec 5) (off6 : BitVec 6) (off9 : BitVec 9) (s : State)

@[simp] theorem exec_andReg :
    exec (.andReg dr sr1 sr2) s = .next (s.define dr (s.readReg sr1 &&& s.readReg sr2)) := rfl

@[simp] theorem exec_andImm :
    exec (.andImm dr sr1 imm5) s = .next (s.define dr (s.readReg sr1 &&& sext 5 imm5)) := rfl

/-- The exclusive or with sixteen ones is the complement (R87). -/
@[simp] theorem exec_not : exec (.not dr sr) s = .next (s.define dr (~~~ s.readReg sr)) := by
  have hones : 0xFFFF#16 = BitVec.allOnes 16 := by decide
  rw [← BitVec.xor_allOnes, ← hones]
  rfl

@[simp] theorem exec_ld : exec (.ld dr off9) s = .next (s.define dr (s.readMem (s.pc + sext 9 off9))) := rfl

@[simp] theorem exec_ldi :
    exec (.ldi dr off9) s = .next (s.define dr (s.readMem (s.readMem (s.pc + sext 9 off9)))) := rfl

@[simp] theorem exec_ldr :
    exec (.ldr dr baseR off6) s = .next (s.define dr (s.readMem (s.readReg baseR + sext 6 off6))) := rfl

@[simp] theorem exec_lea : exec (.lea dr off9) s = .next (s.define dr (s.pc + sext 9 off9)) := rfl

@[simp] theorem exec_st : exec (.st sr off9) s = .next (s.writeMem (s.pc + sext 9 off9) (s.readReg sr)) := rfl

@[simp] theorem exec_sti :
    exec (.sti sr off9) s = .next (s.writeMem (s.readMem (s.pc + sext 9 off9)) (s.readReg sr)) := rfl

@[simp] theorem exec_str :
    exec (.str sr baseR off6) s = .next (s.writeMem (s.readReg baseR + sext 6 off6) (s.readReg sr)) := rfl

end Sys2Proof.Machine
end

section
/-! The statements on AND, NOT, LEA, the loads and the stores. -/

namespace Sys2Proof.Machine

theorem State.define_and_getLsbD (s : State) (dr : Reg) (a b : Word) (k : Nat) :
    ((s.define dr (a &&& b)).readReg dr).getLsbD k = (a.getLsbD k && b.getLsbD k) := by
  rw [State.define_readReg_same, BitVec.getLsbD_and]

/-- Settles O16: both bodies are one `define` of the conjunction. -/
theorem andBothForms : Obligations.AndBothForms :=
  ⟨fun dr sr1 sr2 s => ⟨_, exec_andReg dr sr1 sr2 s, s.define_and_getLsbD dr _ _, s.define_definesOnly dr _⟩,
    fun dr sr1 imm5 s => ⟨_, exec_andImm dr sr1 imm5 s, s.define_and_getLsbD dr _ _, s.define_definesOnly dr _⟩⟩

/-- Settles O17: the body is one `define` of the complement. -/
theorem notComplements : Obligations.NotComplements := fun dr sr s =>
  ⟨_, exec_not dr sr s, by rw [State.define_readReg_same, BitVec.toNat_not], s.define_definesOnly dr _⟩

/-- A second write of the same register hides the first. -/
theorem State.define_define (s : State) (dr : Reg) (u v : Word) : (s.define dr u).define dr v = s.define dr v := by
  cases dr <;> rfl

/-- Settles O18: the complement plus one is the negation, and only the second write of DR is seen. -/
theorem notThenAddOneNegates : Obligations.NotThenAddOneNegates := by
  intro dr sr s
  refine ⟨_, _, exec_not dr sr s, exec_addImm dr dr _ _, ?_⟩
  have hone : sext 5 0b00001#5 = 1#16 := by decide
  have hneg : (~~~ s.readReg sr) + 1#16 = 0x0000#16 - s.readReg sr := by
    rw [BitVec.zero_sub, BitVec.neg_eq_not_add]
  rw [State.define_readReg_same, hone, hneg, State.define_define]
  exact s.define_definesOnly dr _

/-- Settles O19: the three bodies are one `define` each, of the cell at their address. -/
theorem loadsDefineTheirRegister : Obligations.LoadsDefineTheirRegister :=
  ⟨fun dr off9 s => ⟨_, exec_ld dr off9 s, s.define_definesOnly dr _⟩,
    fun dr off9 s => ⟨_, exec_ldi dr off9 s, s.define_definesOnly dr _⟩,
    fun dr baseR off6 s => ⟨_, exec_ldr dr baseR off6 s, s.define_definesOnly dr _⟩⟩

/-- Settles O20: the body is one `define` of the address. -/
theorem leaDefinesTheAddress : Obligations.LeaDefinesTheAddress := fun dr off9 s =>
  ⟨_, exec_lea dr off9 s, s.define_definesOnly dr _, rfl⟩

/-- Settles O21: the three bodies are one store each, at their address. -/
theorem storesStoreTheirRegister : Obligations.StoresStoreTheirRegister :=
  ⟨fun sr off9 s => ⟨_, exec_st sr off9 s, s.writeMem_storesOnly _ _⟩,
    fun sr off9 s => ⟨_, exec_sti sr off9 s, s.writeMem_storesOnly _ _⟩,
    fun sr baseR off6 s => ⟨_, exec_str sr baseR off6 s, s.writeMem_storesOnly _ _⟩⟩

theorem exec_of_storeAddress {i : Instr} {s : State} {a : Word} {r : Reg} (ha : storeAddress i s = some a)
    (hr : storeSource i = some r) : exec i s = .next (s.writeMem a (s.readReg r)) := by
  cases i
  case st | sti | str => cases ha; cases hr; rfl
  all_goals cases ha

/-- Settles O22: the store leaves the core ready, and the cell at its PC reads as the stored register. -/
theorem storeIsSeenByTheNextFetch : Obligations.StoreIsSeenByTheNextFetch := by
  intro s t r hready hstep haddr hsrc
  rw [step_of_ready hready] at hstep
  generalize hpc : t.pc = a at haddr
  obtain rfl : s.advance.writeMem a (s.readReg r) = t :=
    Host.Outcome.next.inj ((exec_of_storeAddress haddr hsrc).symm.trans hstep)
  rw [step_of_ready (s := s.advance.writeMem a (s.readReg r)) hready, hpc, State.readMem_writeMem_same]
  rw [State.advance, hpc]
  rfl

end Sys2Proof.Machine
end

section
/-! Control transfer (`43_control.md`). -/

namespace Sys2Proof.Machine

theorem branchTaken_iff (n z p : Bool) (c : Word) :
    branchTaken n z p c = true ↔
      (n = true ∧ c = condNeg) ∨ (z = true ∧ c = condZro) ∨ (p = true ∧ c = condPos) := by
  simp [branchTaken, or_assoc]

theorem condLegal_iff (c : Word) : condLegal c = true ↔ c = condPos ∨ c = condZro ∨ c = condNeg := by
  simp [condLegal, or_assoc]

/-- Settles O13: for each of the three legal values, the eight requests are evaluated. -/
theorem branchTestIsTheBitTest : Obligations.BranchTestIsTheBitTest := by
  refine ⟨fun n z p c hc => ?_, fun c hc => ?_, fun c => rfl⟩
  · rcases (condLegal_iff c).1 hc with rfl | rfl | rfl <;> revert n z p <;> decide
  · rcases (condLegal_iff c).1 hc with rfl | rfl | rfl <;> decide

theorem onlyPcChanges_setPc (s : State) (v : Word) : OnlyPcChanges s (s.setPc v) :=
  ⟨fun _ => rfl, rfl, fun _ => rfl, ⟨rfl, rfl, rfl, rfl⟩, ⟨rfl, rfl, rfl⟩⟩

/-- Settles O23: the body writes PC alone. -/
theorem jmpSetsPc : Obligations.JmpSetsPc :=
  ⟨by decide, fun baseR s => ⟨s.setPc (s.readReg baseR), rfl, rfl, onlyPcChanges_setPc s _⟩⟩

/-- What JSR and JSRR share: R7 is the incremented PC, and PC is written. -/
theorem State.link_setPc_frame (s : State) (v : Word) :
    (s.link.setPc v).readReg .r7 = s.pc ∧ SameRegsExcept .r7 s (s.link.setPc v) :=
  ⟨s.readReg_writeReg_same .r7 s.pc, fun _ h => s.readReg_writeReg_ne s.pc h⟩

/-- Settles O24: the link, and then PC. -/
theorem jsrLinksAndJumps : Obligations.JsrLinksAndJumps := by
  intro off11 s
  obtain ⟨hlink, hregs⟩ := s.link_setPc_frame (s.pc + sext 11 off11)
  exact ⟨_, rfl, hlink, rfl, hregs, rfl, fun _ => rfl, ⟨rfl, rfl, rfl, rfl⟩, ⟨rfl, rfl, rfl⟩⟩

/-- Settles O25: the base is read after R7 is written. -/
theorem jsrrLinksThenReadsItsBase : Obligations.JsrrLinksThenReadsItsBase := by
  intro baseR s
  obtain ⟨hlink, hregs⟩ := s.link_setPc_frame (s.link.readReg baseR)
  refine ⟨_, rfl, hlink, fun h => s.readReg_writeReg_ne s.pc h, ?_, hregs, rfl, fun _ => rfl,
    ⟨rfl, rfl, rfl, rfl⟩, ⟨rfl, rfl, rfl⟩⟩
  rintro rfl
  exact s.readReg_writeReg_same .r7 s.pc

section br

variable {n z p : Bool} {s : State} (off9 : BitVec 9)

theorem exec_br_of_taken (h : branchTaken n z p s.cond = true) :
    exec (.br n z p off9) s = .next (s.setPc (s.pc + sext 9 off9)) :=
  congrArg Host.Outcome.next (if_pos h)

theorem exec_br_of_not_taken (h : ¬ branchTaken n z p s.cond = true) : exec (.br n z p off9) s = .next s :=
  congrArg Host.Outcome.next (if_neg h)

end br

/-- Settles O26: by whether the branch is taken. -/
theorem brBranchesOnTheRequestedFlag : Obligations.BrBranchesOnTheRequestedFlag := by
  intro n z p off9 s
  have htest := branchTaken_iff n z p s.cond
  by_cases hb : branchTaken n z p s.cond = true
  · exact ⟨_, exec_br_of_taken off9 hb, (if_pos (htest.1 hb)).symm, onlyPcChanges_setPc s _⟩
  · exact ⟨_, exec_br_of_not_taken off9 hb, (if_neg fun h => hb (htest.2 h)).symm, onlyPcChanges_setPc s s.pc⟩

/-- The words below `0x0200` ask for no flag (R62). -/
theorem decode_of_lt {w : Word} (h : w.toNat < 0x0200) : decode w = .br false false false (fieldOff9 w) := by
  have hbit (k : Nat) (hk : 9 ≤ k) : w.getLsbD k = false :=
    Nat.testBit_lt_two_pow (h.trans_le (Nat.pow_le_pow_right (n := 2) Nat.two_pos hk))
  have hop : fieldOp w = 0#4 := BitVec.eq_of_getLsbD_eq fun i _ => by
    rw [fieldOp, BitVec.getLsbD_extractLsb', hbit _ (by omega)]; simp
  have ho : Opcode.ofBits (fieldOp w) = .br := by rw [hop]; rfl
  simp only [decode, ho, hbit 11 (by decide), hbit 10 (by decide), hbit 9 (by decide)]

/-- Settles O29: such a word decodes to a BR that requests no flag. -/
theorem branchOnNothingIsANoOperation : Obligations.BranchOnNothingIsANoOperation := by
  intro s hready hword
  rw [step_of_ready hready, decode_of_lt hword, exec_br_of_not_taken _ (by simp [branchTaken])]
  rfl

theorem add_one_add_ofNat (a : Word) (n : Nat) : a + 1 + BitVec.ofNat 16 n = a + BitVec.ofNat 16 (n + 1) := by
  rw [BitVec.add_assoc, BitVec.add_comm 1, BitVec.ofNat_add]
  rfl

/-- Settles O28, by induction on the number of steps: the first is a no-operation, after which memory is as before. -/
theorem zeroMemoryRunsOnForEver : Obligations.ZeroMemoryRunsOnForEver := by
  intro s n hready hzero
  induction n generalizing s with
  | zero => simp [steps]
  | succ n ih =>
    have hstep := branchOnNothingIsANoOperation s hready (by simp [hzero])
    rw [steps_succ_of_next hstep, ih { s with pc := s.pc + 1 } hready hzero, add_one_add_ofNat]

/-- Settles O27: the call leaves the incremented PC in R7, and RET is JMP R7. -/
theorem returnGoesAfterTheCall : Obligations.ReturnGoesAfterTheCall := by
  intro s t u hready hstep hcall huready hret hr7
  have hlink : t.readReg .r7 = s.pc + 1 := by
    rw [step_of_ready hready] at hstep
    rcases hcall with ⟨off11, hi⟩ | ⟨baseR, hi⟩ <;> rw [hi] at hstep <;> cases hstep <;>
      exact (s.advance.link_setPc_frame _).1
  refine ⟨u.advance.setPc (u.advance.readReg .r7), ?_, ?_⟩
  · rw [step_of_ready huready, hret]; rfl
  · exact hr7.trans hlink

end Sys2Proof.Machine
end

section
/-! TRAP and its routines (`44_trap_and_reserved.md`). -/

namespace Sys2Proof.Machine

variable {s : State}

/-! ## The input routines: GETC and IN -/

theorem getcRoutine_of_nil (h : s.consoleIn = []) : getcRoutine s = s.setHold .getc := by
  simp only [getcRoutine, h]

theorem getcRoutine_of_cons {c : Byte} {rest : List Byte} (h : s.consoleIn = c :: rest) :
    getcRoutine s = ((s.setConsoleIn rest).setHold .idle).define .r0 (zext8 c) := by
  simp only [getcRoutine, h]

theorem inRoutine_of_nil (h : s.consoleIn = []) : inRoutine s = s.setHold .inEcho := by
  simp only [inRoutine, h]

theorem inRoutine_of_cons {c : Byte} {rest : List Byte} (h : s.consoleIn = c :: rest) :
    inRoutine s = (((s.setConsoleIn rest).setHold .idle).consolePut c).define .r0 (zext8 c) := by
  simp only [inRoutine, h]

/-- Settles O30: a character is there, so the routine takes it and defines R0 with it. -/
theorem getcReadsACharacter : Obligations.GetcReadsACharacter := by
  intro s c rest h
  refine ⟨_, congrArg Host.Outcome.next (getcRoutine_of_cons h), State.define_readReg_same _ _ _,
    (State.define_cond _ _ _).trans (condOf_zext8 c), rfl, rfl, rfl, fun _ hr => State.define_readReg_ne _ _ _ hr, rfl,
    fun _ => rfl, rfl, rfl, rfl, rfl⟩

/-- Settles O31: as GETC, with the echo before the definition of R0. -/
theorem inReadsAndEchoesACharacter : Obligations.InReadsAndEchoesACharacter := by
  intro s c rest h
  refine ⟨_, congrArg Host.Outcome.next (inRoutine_of_cons h), State.define_readReg_same _ _ _,
    (State.define_cond _ _ _).trans (condOf_zext8 c), rfl, rfl, rfl, fun _ hr => State.define_readReg_ne _ _ _ hr, rfl,
    fun _ => rfl, rfl, rfl, rfl, rfl⟩

theorem step_getc (hl : s.resetLine = false) (hr : s.run = .running) (hh : s.hold = .getc) :
    step s = exec .trapGetc s := by
  rw [step_hold hl hr (by simp [hh]), resume, hh]
  rfl

theorem step_inEcho (hl : s.resetLine = false) (hr : s.run = .running) (hh : s.hold = .inEcho) :
    step s = exec .trapIn s := by
  rw [step_hold hl hr (by simp [hh]), resume, hh]
  rfl

theorem State.setHold_eq_self {h : Hold} (hh : s.hold = h) : s.setHold h = s := by subst hh; rfl

/-- A waiting core without input stays as it is (R79). -/
theorem step_of_waiting (hw : s.waiting = true) (hin : s.consoleIn = []) : step s = .next s := by
  obtain ⟨hl, hr, hh | hh⟩ := s.waiting_iff.1 hw
  · rw [step_getc hl hr hh, exec, execTrapGetc, getcRoutine_of_nil hin, State.setHold_eq_self hh]
  · rw [step_inEcho hl hr hh, exec, execTrapIn, inRoutine_of_nil hin, State.setHold_eq_self hh]

/-- Settles O32: without input the routine is the hold it came from, with input a step is the routine again. -/
theorem inputRoutinesWaitForACharacter : Obligations.InputRoutinesWaitForACharacter :=
  ⟨fun _ hin => ⟨congrArg _ (getcRoutine_of_nil hin), congrArg _ (inRoutine_of_nil hin)⟩,
    fun _ n hw hin => steps_of_stay (step_of_waiting hw hin) n,
    fun _ _ _ hl hr _ => ⟨fun hh => step_getc hl hr hh, fun hh => step_inEcho hl hr hh⟩⟩

/-! ## The output routines: OUT, PUTS, WRITELINE -/

/-- Settles O33: the body is one `consolePut`. -/
theorem outSendsTheLowByte : Obligations.OutSendsTheLowByte := fun _ =>
  ⟨_, rfl, rfl, ⟨fun _ => rfl, rfl, rfl, fun _ => rfl⟩, ⟨rfl, rfl, rfl, rfl⟩, rfl, rfl⟩

theorem putsRoutine_of_some {cs : List Byte} (h : s.putsString = some cs) : putsRoutine s = s.consolePutAll cs := by
  simp only [putsRoutine, h]

theorem putsRoutine_of_none (h : s.putsString = none) : putsRoutine s = s.setHold (.puts (s.readReg .r0)) := by
  simp only [putsRoutine, h]

theorem stringAt_of_zero {m : Memory} {a : Word} (h : m.lookup a.toNat = 0x0000#16) (n : Nat) :
    stringAt m a (n + 1) = some [] := by
  rw [stringAt, if_pos h]

theorem stringAt_of_ne_zero {m : Memory} {a : Word} (h : m.lookup a.toNat ≠ 0x0000#16) (n : Nat) :
    stringAt m a (n + 1) = (stringAt m (a + 1) n).map (lowByte (m.lookup a.toNat) :: ·) := by
  rw [stringAt, if_neg h]

/-- The string at `a` is `cs` where the cells of `cs` are not zero and the one after them is (R113). -/
theorem stringAt_eq_some {m : Memory} {cs : List Byte} : ∀ {a : Word} {fuel : Nat}, cs.length < fuel →
    (∀ (k : Nat) (h : k < cs.length), m.lookup (a + BitVec.ofNat 16 k).toNat ≠ 0x0000#16 ∧
      cs[k] = lowByte (m.lookup (a + BitVec.ofNat 16 k).toNat)) →
    m.lookup (a + BitVec.ofNat 16 cs.length).toNat = 0x0000#16 → stringAt m a fuel = some cs := by
  induction cs with
  | nil =>
    intro a fuel hfuel _ hend
    obtain ⟨n, rfl⟩ := Nat.exists_eq_succ_of_ne_zero (by omega : fuel ≠ 0)
    exact stringAt_of_zero (by simpa using hend) n
  | cons c cs ih =>
    intro a fuel hfuel hcells hend
    obtain ⟨n, rfl⟩ := Nat.exists_eq_succ_of_ne_zero (by omega : fuel ≠ 0)
    obtain ⟨hne, hc⟩ := hcells 0 (by simp)
    simp only [BitVec.add_zero, List.getElem_cons_zero] at hne hc
    have htail : stringAt m (a + 1) n = some cs := by
      refine ih (by simpa using hfuel) (fun k hk => ?_) ?_
      · rw [add_one_add_ofNat]
        exact hcells (k + 1) (by simpa using hk)
      · rw [add_one_add_ofNat]
        exact hend
    rw [stringAt_of_ne_zero hne, htail, hc]
    rfl

/-- Settles O34: the search finds the string within its 65536 cells. -/
theorem putsSendsTheString : Obligations.PutsSendsTheString := by
  intro s cs hlen hcells hend
  have hstring : s.putsString = some cs := stringAt_eq_some hlen hcells hend
  exact ⟨_, congrArg Host.Outcome.next (putsRoutine_of_some hstring), rfl, ⟨fun _ => rfl, rfl, rfl, fun _ => rfl⟩,
    ⟨rfl, rfl, rfl, rfl⟩, rfl, rfl⟩

theorem stringAt_eq_none {m : Memory} (h : ∀ a : Word, m.lookup a.toNat ≠ 0x0000#16) (fuel : Nat) (a : Word) :
    stringAt m a fuel = none := by
  induction fuel generalizing a with
  | zero => rfl
  | succ n ih => rw [stringAt_of_ne_zero (h a), ih]; rfl

theorem step_puts {a : Word} (hl : s.resetLine = false) (hr : s.run = .running) (hh : s.hold = .puts a) :
    step s = .next (putsResume a s) := by
  rw [step_hold hl hr (by simp [hh]), resume, hh]

theorem putsResume_of_zero {a : Word} (h : s.readMem a = 0x0000#16) : putsResume a s = s.setHold .idle := if_pos h

theorem putsResume_of_ne_zero {a : Word} (h : s.readMem a ≠ 0x0000#16) :
    putsResume a s = (s.consolePut (lowByte (s.readMem a))).setHold (.puts (a + 1)) := if_neg h

/-- The low bytes of `n` cells from `a` on, addresses modulo 2^16. -/
def State.bytesFrom (s : State) (a : Word) (n : Nat) : List Byte :=
  (List.range n).map fun k => lowByte (s.readMem (a + BitVec.ofNat 16 k))

theorem State.bytesFrom_succ (s : State) (a : Word) (n : Nat) :
    s.bytesFrom a (n + 1) = lowByte (s.readMem a) :: s.bytesFrom (a + 1) n := by
  simp only [State.bytesFrom, List.range_succ_eq_map, List.map_cons, List.map_map, Function.comp_def,
    Nat.succ_eq_add_one, add_one_add_ofNat, BitVec.add_zero]

theorem State.consolePutAll_cons (s : State) (c : Byte) (cs : List Byte) :
    s.consolePutAll (c :: cs) = (s.consolePut c).consolePutAll cs := by
  simp [State.consolePut, State.consolePutAll]

/-- Inside a PUTS that never ends, `n` steps send the bytes of `n` cells. -/
theorem steps_puts (n : Nat) {s : State} {a : Word} (hcells : ∀ a : Word, s.readMem a ≠ 0x0000#16)
    (hl : s.resetLine = false) (hr : s.run = .running) (hh : s.hold = .puts a) :
    steps n s = .next ((s.consolePutAll (s.bytesFrom a n)).setHold (.puts (a + BitVec.ofNat 16 n))) := by
  induction n generalizing s a with
  | zero => simp [steps, State.bytesFrom, State.setHold_eq_self hh]
  | succ n ih =>
    have htail := ih (s := (s.consolePut (lowByte (s.readMem a))).setHold (.puts (a + 1))) hcells hl hr rfl
    rw [steps_succ_of_next (step_puts hl hr hh), putsResume_of_ne_zero (hcells a), htail, add_one_add_ofNat,
      State.bytesFrom_succ, State.consolePutAll_cons]
    rfl

/-- Settles O35: the search finds no end, and `steps_puts` says what every further step sends. -/
theorem putsWithoutATerminatorNeverEnds : Obligations.PutsWithoutATerminatorNeverEnds := by
  intro s hcells
  refine ⟨?_, fun a n hl hr hh => steps_puts n hcells hl hr hh⟩
  have hstring : s.putsString = none := stringAt_eq_none hcells 65536 (s.readReg .r0)
  exact congrArg Host.Outcome.next (putsRoutine_of_none hstring)

theorem step_writeLine {k : Nat} (hl : s.resetLine = false) (hr : s.run = .running) (hh : s.hold = .writeLine k) :
    step s = .next (writeLineResume k s) := by
  rw [step_hold hl hr (by simp [hh]), resume, hh]

theorem writeLineResume_of_finite {k : Nat} {cs : List Byte} (h : s.writeLineSeq = .finite cs) :
    writeLineResume k s = s.setHold .idle := by
  simp only [writeLineResume, h]

theorem writeLineResume_of_endless {k : Nat} {c : Nat → Byte} (h : s.writeLineSeq = .endless c) :
    writeLineResume k s = (s.consolePut (c k)).setHold (.writeLine (k + 1)) := by
  simp only [writeLineResume, h]

theorem writeLineRoutine_of_finite {cs : List Byte} (h : s.writeLineSeq = .finite cs) :
    writeLineRoutine s = (s.consolePutAll cs).setHold s.hold := by
  simp [writeLineRoutine, h, CharSeq.finitePart, CharSeq.isEndless]

theorem writeLineRoutine_of_endless {c : Nat → Byte} (h : s.writeLineSeq = .endless c) :
    writeLineRoutine s = s.setHold (.writeLine 0) := by
  simp [writeLineRoutine, h, CharSeq.finitePart, CharSeq.isEndless]

/-- What further steps inside WRITELINE leave alone. -/
theorem writeLineResume_frame (k : Nat) (s : State) :
    SameMachine s (writeLineResume k s) ∧ (writeLineResume k s).run = s.run ∧
      (writeLineResume k s).stopCause = s.stopCause ∧ (writeLineResume k s).resetLine = s.resetLine ∧
      (writeLineResume k s).consoleIn = s.consoleIn ∧ (writeLineResume k s).notices = s.notices := by
  unfold writeLineResume
  split <;> exact ⟨⟨fun _ => rfl, rfl, rfl, fun _ => rfl⟩, rfl, rfl, rfl, rfl, rfl⟩

/-- Settles O36: by whether the free sequence ends. -/
theorem writelineSendsTheParameter : Obligations.WritelineSendsTheParameter := by
  refine ⟨fun s => ?_, fun s k hl hr hh => ?_⟩
  · refine ⟨writeLineRoutine s, rfl, ⟨fun _ => rfl, rfl, rfl, fun _ => rfl⟩, rfl, rfl, rfl, rfl, rfl, ?_, ?_⟩
    · intro cs hseq
      rw [writeLineRoutine_of_finite hseq]
      exact ⟨rfl, rfl⟩
    · intro c hseq
      rw [writeLineRoutine_of_endless hseq]
      exact ⟨rfl, rfl⟩
  · obtain ⟨hmachine, hrun, hcause, hline, hin, hnotices⟩ := writeLineResume_frame k s
    refine ⟨_, step_writeLine hl hr hh, hmachine, hrun, hcause, hline, hin, hnotices, fun c hseq => ?_⟩
    rw [writeLineResume_of_endless hseq]
    exact ⟨rfl, rfl⟩

/-! ## HALT and the unlisted vectors -/

/-- Settles O37: a notice and a stop, and a HALTED core stays. -/
theorem haltStopsTheCore : Obligations.HaltStopsTheCore := fun s =>
  ⟨_, rfl, rfl, rfl, rfl, (s.consoleNotice .halt).stop_sameMachine _, rfl, rfl, rfl, rfl, step_stop _ _⟩

theorem isUnlistedTrap_decodeTrap (v : BitVec 8) :
    isUnlistedTrap (decodeTrap v) = true ↔ ¬ (0x20 ≤ v.toNat ∧ v.toNat ≤ 0x25) := by
  revert v; decide

theorem exec_of_isUnlistedTrap {i : Instr} (h : isUnlistedTrap i = true) (s : State) : exec i s = .next s := by
  cases i
  case trapUnlisted00 | trapUnlisted26 | trapUnlisted28 | trapUnlisted30 | trapUnlisted40 | trapUnlisted80 => rfl
  all_goals cases h

/-- Settles O38: which vectors are unlisted is checked on all 256 of them. -/
theorem unlistedTrapsDoNothing : Obligations.UnlistedTrapsDoNothing := by
  refine ⟨fun _ _ => ⟨rfl, rfl, rfl, rfl, rfl, rfl⟩, fun w hop => ?_⟩
  have hiff := isUnlistedTrap_decodeTrap (fieldVect w)
  rw [decode_of_opcode_trap hop]
  exact ⟨hiff, fun s hv => exec_of_isUnlistedTrap (hiff.2 hv) s⟩

/-- No TRAP is a jump or a store, and R0 is the one register a TRAP may write (R109). -/
theorem isTrap_writes {i : Instr} (h : isTrap i = true) :
    writesPc i = false ∧ (∀ s, storeAddress i s = none) ∧ ∀ r, destination i = some r → r = .r0 := by
  cases i
  case trapGetc | trapIn => exact ⟨rfl, fun _ => rfl, fun _ h => (Option.some.inj h).symm⟩
  case trapOut | trapPuts | trapWriteline | trapHalt | trapUnlisted00 | trapUnlisted26 | trapUnlisted28 |
      trapUnlisted30 | trapUnlisted40 | trapUnlisted80 => exact ⟨rfl, fun _ => rfl, nofun⟩
  all_goals cases h

/-- Settles O39: a TRAP is no jump and no store, and writes at most R0. -/
theorem trapsKeepPcLinkAndMemory : Obligations.TrapsKeepPcLinkAndMemory := by
  intro i s hi
  obtain ⟨t, ht⟩ := exec_next i s
  have he := exec_effect ht
  obtain ⟨hpc, hstore, hdest⟩ := isTrap_writes hi
  have hregs (r : Reg) (hr : r ≠ .r0) : t.readReg r = s.readReg r := he.readReg fun hd => hr (hdest r hd)
  exact ⟨t, ht, he.pc hpc, hregs .r7 (by decide), hregs, fun a => he.readMem (by simp [hstore])⟩

end Sys2Proof.Machine
end

section
/-! Initial memories and image files (`20_memory.md` R46, R47). -/

namespace Sys2Proof.Machine

/-! ## Canonical memories that read the same are the same list -/

theorem Memory.wfFrom_cons {lo k : Nat} {v : Word} {m : Memory} :
    Memory.wfFrom lo ((k, v) :: m) = true ↔
      lo ≤ k ∧ k < 65536 ∧ v ≠ Memory.unlisted ∧ Memory.wfFrom (k + 1) m = true := by
  simp [Memory.wfFrom, and_assoc]

theorem Memory.lookup_cons_same (k : Nat) (v : Word) (m : Memory) : Memory.lookup ((k, v) :: m) k = v := by
  simp [Memory.lookup]

theorem Memory.lookup_cons_ne {k a : Nat} (v : Word) (m : Memory) (h : k ≠ a) :
    Memory.lookup ((k, v) :: m) a = m.lookup a := by
  simp [Memory.lookup, h]

/-- Below its bound, and outside the 16-bit space, a canonical list names no address. -/
theorem Memory.lookup_of_wfFrom {m : Memory} {lo a : Nat} (h : Memory.wfFrom lo m = true)
    (ha : a < lo ∨ 65536 ≤ a) : m.lookup a = Memory.unlisted := by
  induction m generalizing lo with
  | nil => rfl
  | cons e m ih =>
    obtain ⟨k, v⟩ := e
    obtain ⟨hlo, hk, _, htail⟩ := Memory.wfFrom_cons.1 h
    rw [Memory.lookup_cons_ne v m (by omega)]
    exact ih htail (by omega)

/-- The first address of a list is none below the bound of a canonical list that reads the same there. -/
theorem Memory.bound_le_head {m m' : Memory} {k lo : Nat} {v : Word} (hv : v ≠ Memory.unlisted)
    (h' : Memory.wfFrom lo m' = true) (heq : Memory.lookup ((k, v) :: m) k = m'.lookup k) : lo ≤ k := by
  by_contra hlt
  rw [Memory.lookup_cons_same, Memory.lookup_of_wfFrom h' (by omega)] at heq
  exact hv heq

theorem Memory.eq_of_lookup {m m' : Memory} {lo : Nat} (h : Memory.wfFrom lo m = true)
    (h' : Memory.wfFrom lo m' = true) (heq : ∀ a, m.lookup a = m'.lookup a) : m = m' := by
  induction m generalizing m' lo with
  | nil =>
    cases m' with
    | nil => rfl
    | cons e' m' =>
      obtain ⟨k', v'⟩ := e'
      obtain ⟨_, _, hv', _⟩ := Memory.wfFrom_cons.1 h'
      exact absurd (heq k').symm (by rwa [Memory.lookup_cons_same])
  | cons e m ih =>
    obtain ⟨k, v⟩ := e
    obtain ⟨_, hk, hv, htail⟩ := Memory.wfFrom_cons.1 h
    cases m' with
    | nil => exact absurd (heq k) (by rwa [Memory.lookup_cons_same])
    | cons e' m' =>
      obtain ⟨k', v'⟩ := e'
      obtain ⟨_, hk', hv', htail'⟩ := Memory.wfFrom_cons.1 h'
      obtain rfl : k = k' := le_antisymm
        (Memory.bound_le_head hv' (Memory.wfFrom_cons.2 ⟨le_rfl, hk, hv, htail⟩) (heq k').symm)
        (Memory.bound_le_head hv (Memory.wfFrom_cons.2 ⟨le_rfl, hk', hv', htail'⟩) (heq k))
      obtain rfl : v = v' := by simpa only [Memory.lookup_cons_same] using heq k
      refine congrArg _ (ih htail htail' fun a => ?_)
      by_cases ha : k = a
      · rw [Memory.lookup_of_wfFrom htail (by omega), Memory.lookup_of_wfFrom htail' (by omega)]
      · simpa only [Memory.lookup_cons_ne _ _ ha] using heq a

/-! ## Words stored at rising addresses -/

theorem storeWords_cons {m : Memory} {a : Nat} (w : Word) (ws : List Word) (ha : a < 65536) :
    storeWords m a (w :: ws) = storeWords (m.store a w) (a + 1) ws := by
  rw [storeWords, if_pos ha]

theorem storeWords_spec {ws : List Word} {m : Memory} {a : Nat} (hlen : a + ws.length ≤ 65536) :
    ∃ m', storeWords m a ws = some m' ∧ (∀ (k : Nat) (h : k < ws.length), m'.lookup (a + k) = ws[k]) ∧
      ∀ b : Nat, b < a ∨ a + ws.length ≤ b → m'.lookup b = m.lookup b := by
  induction ws generalizing m a with
  | nil => exact ⟨m, rfl, nofun, fun _ _ => rfl⟩
  | cons w ws ih =>
    rw [List.length_cons] at hlen
    obtain ⟨m', hm', hcells, hframe⟩ := ih (m := m.store a w) (a := a + 1) (by omega)
    refine ⟨m', (storeWords_cons w ws (by omega)).trans hm', fun k hk => ?_, fun b hb => ?_⟩
    · cases k with
      | zero => rw [Nat.add_zero, hframe a (by omega), Memory.lookup_store_same]; rfl
      | succ k =>
        rw [List.length_cons] at hk
        rw [← Nat.succ_add_eq_add_succ]
        exact hcells k (by omega)
    · rw [List.length_cons] at hb
      rw [hframe b (by omega), Memory.lookup_store_ne m w (by omega)]

theorem readMem_resetWith (m : Memory) (a : Word) : (State.resetWith m).readMem a = m.lookup a.toNat := rfl

/-- Any list of words that fits is the beginning of some canonical memory. -/
theorem exists_memory_of_words (ws : List Word) (hlen : ws.length ≤ 65536) :
    ∃ m : Memory, m.wf = true ∧ ∀ (k : Nat) (h : k < ws.length), m.lookup k = ws[k] := by
  obtain ⟨m, hm, hcells, _⟩ := storeWords_spec (ws := ws) (m := []) (a := 0) (by omega)
  exact ⟨m, storeWords_wf rfl hm, fun k hk => by simpa using hcells k hk⟩

/-- Settles O43: every cell of `f` is stored in turn, and canonical lists that read the same are the same. -/
theorem everyInitialMemoryIsOneCanonicalList : Obligations.EveryInitialMemoryIsOneCanonicalList := by
  refine ⟨fun f => ?_, fun m m' hm hm' heq => Memory.eq_of_lookup hm hm' fun a => ?_⟩
  · have hlen : (List.ofFn fun k : Fin (2 ^ 16) => f (BitVec.ofFin k)).length = 2 ^ 16 := List.length_ofFn
    obtain ⟨m, hwf, hcells⟩ := exists_memory_of_words _ hlen.le
    refine ⟨m, hwf, fun a => (hcells a.toNat (hlen.symm ▸ a.isLt)).trans ?_⟩
    rw [List.getElem_ofFn]
    rfl
  · by_cases ha : a < 65536
    · simpa only [readMem_resetWith, BitVec.toNat_ofNat, Nat.mod_eq_of_lt ha] using heq (BitVec.ofNat 16 a)
    · rw [Memory.lookup_of_wfFrom hm (by omega), Memory.lookup_of_wfFrom hm' (by omega)]

/-! ## Image files -/

theorem imageWord_eq_place (hi lo : Byte) : imageWord hi lo = place hi 8 ||| place lo 0 := by
  simp [imageWord, place]

/-- The two bytes of a word, bits 15:8 first, give the word again (R36). -/
theorem imageWord_bytes (w : Word) : imageWord (w.extractLsb' 8 8) (w.extractLsb' 0 8) = w := by
  have hmask : place (BitVec.allOnes 8) 8 ||| place (BitVec.allOnes 8) 0 = BitVec.allOnes 16 := by decide
  rw [imageWord_eq_place, place_extractLsb', place_extractLsb', ← BitVec.and_or_distrib_left, hmask,
    BitVec.and_allOnes]

theorem imageOf_eq (org : Word) (ws : List Word) :
    imageOf org ws = org.extractLsb' 8 8 :: org.extractLsb' 0 8 ::
      ws.flatMap fun w => [w.extractLsb' 8 8, w.extractLsb' 0 8] := rfl

theorem imageWords_bytes (ws : List Word) :
    imageWords (ws.flatMap fun w => [w.extractLsb' 8 8, w.extractLsb' 0 8]) = some ws := by
  induction ws with
  | nil => rfl
  | cons w ws ih => simp [imageWords, ih, imageWord_bytes]

/-- Settles O44: the loader reads the words back from their bytes, and stores them. -/
theorem imageWordsGoToRisingAddresses : Obligations.ImageWordsGoToRisingAddresses := by
  intro m org ws hwf hlen
  obtain ⟨m', hm', hcells, hframe⟩ := storeWords_spec (m := m) hlen
  have hload : loadImage m (imageOf org ws) = some m' := by
    rw [imageOf_eq, loadImage, imageWords_bytes, imageWord_bytes]
    exact hm'
  exact ⟨m', hload, loadImage_wf hwf hload, hcells, hframe⟩

end Sys2Proof.Machine
end

section
/-! Output (`44_trap_and_reserved.md` R110): a step appends to it and never looks at it. -/

namespace Sys2Proof.Machine

/-- The state with another output so far. -/
def State.withOut (s : State) (out : List Byte) : State := { s with consoleOut := out }

/-- From `s`, `f` answers a next state with some list appended to the output; from `s` with any other output so far it
answers the same state, with that list appended to that output. -/
def AppendsOnly (f : State → Host.Outcome State Fault Refusal) (s : State) : Prop :=
  ∃ (t : State) (sent : List Byte), f s = .next t ∧ t.consoleOut = s.consoleOut ++ sent ∧
    ∀ out : List Byte, f (s.withOut out) = .next (t.withOut (out ++ sent))

variable {s : State}

theorem AppendsOnly.silent {f : State → Host.Outcome State Fault Refusal} {t : State} (h : f s = .next t)
    (ht : t.consoleOut = s.consoleOut) (hf : ∀ out, f (s.withOut out) = .next (t.withOut out)) : AppendsOnly f s :=
  ⟨t, [], h, by rw [ht, List.append_nil], fun out => by rw [List.append_nil]; exact hf out⟩

theorem AppendsOnly.of_eq {f g : State → Host.Outcome State Fault Refusal} {u : State} (h : AppendsOnly g u)
    (hu : u.consoleOut = s.consoleOut) (hfg : ∀ out, f (s.withOut out) = g (u.withOut out)) : AppendsOnly f s := by
  obtain ⟨t, sent, ht, hsent, hout⟩ := h
  refine ⟨t, sent, ?_, hsent.trans (congrArg (· ++ sent) hu), fun out => (hfg out).trans (hout out)⟩
  exact (hfg s.consoleOut).trans (hu ▸ ht)

theorem execTrapGetc_appendsOnly (s : State) : AppendsOnly execTrapGetc s := by
  unfold execTrapGetc
  cases hin : s.consoleIn with
  | nil =>
    exact .silent (congrArg _ (getcRoutine_of_nil hin)) rfl fun out =>
      congrArg _ (getcRoutine_of_nil (s := s.withOut out) hin)
  | cons c rest =>
    exact .silent (congrArg _ (getcRoutine_of_cons hin)) rfl fun out =>
      congrArg _ (getcRoutine_of_cons (s := s.withOut out) hin)

theorem execTrapIn_appendsOnly (s : State) : AppendsOnly execTrapIn s := by
  unfold execTrapIn
  cases hin : s.consoleIn with
  | nil =>
    exact .silent (congrArg _ (inRoutine_of_nil hin)) rfl fun out =>
      congrArg _ (inRoutine_of_nil (s := s.withOut out) hin)
  | cons c rest =>
    exact ⟨_, [c], congrArg _ (inRoutine_of_cons hin), rfl, fun out =>
      congrArg _ (inRoutine_of_cons (s := s.withOut out) hin)⟩

theorem execTrapPuts_appendsOnly (s : State) : AppendsOnly execTrapPuts s := by
  unfold execTrapPuts
  cases hstring : s.putsString with
  | none =>
    exact .silent (congrArg _ (putsRoutine_of_none hstring)) rfl fun out =>
      congrArg _ (putsRoutine_of_none (s := s.withOut out) hstring)
  | some cs =>
    exact ⟨_, cs, congrArg _ (putsRoutine_of_some hstring), rfl, fun out =>
      congrArg _ (putsRoutine_of_some (s := s.withOut out) hstring)⟩

theorem execTrapWriteline_appendsOnly (s : State) : AppendsOnly execTrapWriteline s :=
  ⟨_, s.writeLineSeq.finitePart, rfl, rfl, fun _ => rfl⟩

theorem putsResume_appendsOnly (a : Word) (s : State) : AppendsOnly (fun s => .next (putsResume a s)) s := by
  by_cases hcell : s.readMem a = 0x0000#16
  · exact .silent (congrArg _ (putsResume_of_zero hcell)) rfl fun out =>
      congrArg _ (putsResume_of_zero (s := s.withOut out) hcell)
  · exact ⟨_, [lowByte (s.readMem a)], congrArg _ (putsResume_of_ne_zero hcell), rfl, fun out =>
      congrArg _ (putsResume_of_ne_zero (s := s.withOut out) hcell)⟩

theorem writeLineResume_appendsOnly (k : Nat) (s : State) : AppendsOnly (fun s => .next (writeLineResume k s)) s := by
  cases hseq : s.writeLineSeq with
  | finite cs =>
    exact .silent (congrArg _ (writeLineResume_of_finite hseq)) rfl fun out =>
      congrArg _ (writeLineResume_of_finite (s := s.withOut out) hseq)
  | endless c =>
    exact ⟨_, [c k], congrArg _ (writeLineResume_of_endless hseq), rfl, fun out =>
      congrArg _ (writeLineResume_of_endless (s := s.withOut out) hseq)⟩

theorem exec_appendsOnly (i : Instr) (s : State) : AppendsOnly (exec i) s := by
  cases i
  case br n z p off9 =>
    by_cases hb : branchTaken n z p s.cond = true
    · exact .silent (exec_br_of_taken off9 hb) rfl fun out => exec_br_of_taken (s := s.withOut out) off9 hb
    · exact .silent (exec_br_of_not_taken off9 hb) rfl fun out => exec_br_of_not_taken (s := s.withOut out) off9 hb
  case trapGetc => exact execTrapGetc_appendsOnly s
  case trapIn => exact execTrapIn_appendsOnly s
  case trapPuts => exact execTrapPuts_appendsOnly s
  case trapWriteline => exact execTrapWriteline_appendsOnly s
  case trapOut => exact ⟨_, [lowByte (s.readReg .r0)], rfl, rfl, fun _ => rfl⟩
  all_goals exact .silent rfl rfl fun _ => rfl

theorem step_appendsOnly (s : State) : AppendsOnly step s := by
  by_cases hl : s.resetLine = true
  · exact .silent (step_resetLine hl) rfl fun out => step_resetLine (s := s.withOut out) hl
  rw [Bool.not_eq_true] at hl
  cases hr : s.run with
  | halted => exact .silent (step_halted hr) rfl fun out => step_halted (s := s.withOut out) hr
  | running =>
    cases hh : s.hold with
    | idle =>
      exact (exec_appendsOnly (decode (s.readMem s.pc)) s.advance).of_eq rfl fun out =>
        step_of_ready (s := s.withOut out) (s.ready_iff.2 ⟨hl, hr, hh⟩)
    | getc => exact (exec_appendsOnly .trapGetc s).of_eq rfl fun out => step_getc (s := s.withOut out) hl hr hh
    | inEcho => exact (exec_appendsOnly .trapIn s).of_eq rfl fun out => step_inEcho (s := s.withOut out) hl hr hh
    | puts a => exact (putsResume_appendsOnly a s).of_eq rfl fun out => step_puts (s := s.withOut out) hl hr hh
    | writeLine k =>
      exact (writeLineResume_appendsOnly k s).of_eq rfl fun out => step_writeLine (s := s.withOut out) hl hr hh

/-- Settles O52, from `step_appendsOnly`. -/
theorem outputNeverInfluencesAStep : Obligations.OutputNeverInfluencesAStep := by
  intro s t h
  obtain ⟨t', sent, ht', hsent, hout⟩ := step_appendsOnly s
  obtain rfl : t' = t := Host.Outcome.next.inj (ht'.symm.trans h)
  exact ⟨sent, hsent, hout⟩

end Sys2Proof.Machine
end

section
/-! The port transactions (`20_memory.md` R42, `44_trap_and_reserved.md` R110 to R117): replaying them gives what the
step does to memory and the console, and every read carries the value the cell had. -/

namespace Sys2Proof.Machine

/-- Memory, unread input, output and notices are the same. -/
def SamePorts (s t : State) : Prop :=
  s.mem = t.mem ∧ s.consoleIn = t.consoleIn ∧ s.consoleOut = t.consoleOut ∧ s.notices = t.notices

theorem SamePorts.refl (s : State) : SamePorts s s := ⟨rfl, rfl, rfl, rfl⟩

theorem SamePorts.trans {s t u : State} (h : SamePorts s t) (h' : SamePorts t u) : SamePorts s u := by
  obtain ⟨hmem, hin, hout, hnotices⟩ := h
  obtain ⟨hmem', hin', hout', hnotices'⟩ := h'
  exact ⟨hmem.trans hmem', hin.trans hin', hout.trans hout', hnotices.trans hnotices'⟩

theorem SamePorts.apply {s t : State} (h : SamePorts s t) (x : Txn) : SamePorts (x.apply s) (x.apply t) := by
  obtain ⟨hmem, hin, hout, hnotices⟩ := h
  cases x <;> simp [Txn.apply, SamePorts, hmem, hin, hout, hnotices]

theorem SamePorts.applyTxns {s t : State} (h : SamePorts s t) (xs : List Txn) :
    SamePorts (applyTxns s xs) (applyTxns t xs) := by
  induction xs generalizing s t with
  | nil => exact h
  | cons x xs ih => exact ih (h.apply x)

theorem applyTxns_append (s : State) (xs ys : List Txn) : applyTxns s (xs ++ ys) = applyTxns (applyTxns s xs) ys := by
  induction xs generalizing s with
  | nil => rfl
  | cons x xs ih => exact ih (x.apply s)

/-- A read carries the value of its cell in `s`. -/
def Txn.readsFrom (s : State) : Txn → Prop
  | .memRead a v => v = s.readMem a
  | _ => True

@[simp] theorem State.readTxn_readsFrom (s : State) (a : Word) : (s.readTxn a).readsFrom s := rfl
@[simp] theorem Txn.memWrite_readsFrom (s : State) (a v : Word) : (Txn.memWrite a v).readsFrom s := trivial
@[simp] theorem Txn.consoleIn_readsFrom (s : State) (c : Byte) : (Txn.consoleIn c).readsFrom s := trivial
@[simp] theorem Txn.consoleOut_readsFrom (s : State) (c : Byte) : (Txn.consoleOut c).readsFrom s := trivial
@[simp] theorem Txn.consoleNotice_readsFrom (s : State) (k : Notice) : (Txn.consoleNotice k).readsFrom s := trivial

/-! ## The routines of TRAP -/

section routines

variable (s : State)

theorem applyTxns_writeLineReadTxns (u : State) (k : Nat) : applyTxns u (s.writeLineReadTxns k) = u := by
  unfold State.writeLineReadTxns
  induction Config.writeLineReads s.readMem (s.readReg .r0) k with
  | nil => rfl
  | cons a as ih => exact ih

theorem writeLineReadTxns_readsFrom (k : Nat) : ∀ x ∈ s.writeLineReadTxns k, x.readsFrom s := by
  simp [State.writeLineReadTxns]

theorem applyTxns_putsLoopTxns (u : State) (a : Word) (cs : List Byte) :
    applyTxns u (putsLoopTxns s a cs) = u.consolePutAll cs := by
  induction cs generalizing u a with
  | nil => exact u.consolePutAll_nil.symm
  | cons c cs ih => exact (ih (u.consolePut c) (a + 1)).trans (u.consolePutAll_cons c cs).symm

theorem putsLoopTxns_readsFrom (a : Word) (cs : List Byte) : ∀ x ∈ putsLoopTxns s a cs, x.readsFrom s := by
  induction cs generalizing a with
  | nil => simp [putsLoopTxns]
  | cons c cs ih => simpa [putsLoopTxns] using ih (a + 1)

theorem applyTxns_writeLineLoopTxns (u : State) (k : Nat) (cs : List Byte) :
    applyTxns u (writeLineLoopTxns s k cs) = u.consolePutAll cs := by
  induction cs generalizing u k with
  | nil => rw [writeLineLoopTxns, applyTxns_writeLineReadTxns, State.consolePutAll_nil]
  | cons c cs ih =>
    rw [writeLineLoopTxns, applyTxns_append, applyTxns_writeLineReadTxns, u.consolePutAll_cons c cs]
    exact ih (u.consolePut c) (k + 1)

theorem writeLineLoopTxns_readsFrom (k : Nat) (cs : List Byte) : ∀ x ∈ writeLineLoopTxns s k cs, x.readsFrom s := by
  induction cs generalizing k with
  | nil => exact writeLineReadTxns_readsFrom s k
  | cons c cs ih =>
    have hreads := writeLineReadTxns_readsFrom s k
    simp only [writeLineLoopTxns, List.forall_mem_append, List.forall_mem_cons]
    exact ⟨hreads, trivial, ih (k + 1)⟩

end routines

/-- The transactions `xs` account for the way from `s` to `t`. -/
structure Accounts (s t : State) (xs : List Txn) : Prop where
  replay : SamePorts (applyTxns s xs) t
  reads : ∀ x ∈ xs, x.readsFrom s

theorem getcRoutine_accounts (s : State) : Accounts s (getcRoutine s) (getcTxns s) := by
  cases hin : s.consoleIn with
  | nil =>
    rw [getcRoutine_of_nil hin, getcTxns, hin]
    exact ⟨.refl _, nofun⟩
  | cons c rest =>
    rw [getcRoutine_of_cons hin, getcTxns, hin]
    exact ⟨⟨rfl, congrArg List.tail hin, rfl, rfl⟩, by simp⟩

theorem inRoutine_accounts (s : State) : Accounts s (inRoutine s) (inTxns s) := by
  cases hin : s.consoleIn with
  | nil =>
    rw [inRoutine_of_nil hin, inTxns, hin]
    exact ⟨.refl _, nofun⟩
  | cons c rest =>
    rw [inRoutine_of_cons hin, inTxns, hin]
    exact ⟨⟨rfl, congrArg List.tail hin, rfl, rfl⟩, by simp⟩

theorem putsRoutine_accounts (s : State) : Accounts s (putsRoutine s) (putsTxns s) := by
  cases hstring : s.putsString with
  | none =>
    rw [putsRoutine_of_none hstring, putsTxns, hstring]
    exact ⟨.refl _, nofun⟩
  | some cs =>
    rw [putsRoutine_of_some hstring, putsTxns, hstring]
    exact ⟨applyTxns_putsLoopTxns s s _ cs ▸ .refl _, putsLoopTxns_readsFrom s _ cs⟩

theorem putsResume_accounts (a : Word) (s : State) : Accounts s (putsResume a s) (putsResumeTxns a s) := by
  unfold putsResumeTxns
  by_cases hcell : s.readMem a = 0x0000#16
  · rw [putsResume_of_zero hcell, if_pos hcell]
    exact ⟨.refl _, by simp⟩
  · rw [putsResume_of_ne_zero hcell, if_neg hcell]
    exact ⟨.refl _, by simp⟩

theorem writeLineRoutine_accounts (s : State) : Accounts s (writeLineRoutine s) (writeLineTxns s) := by
  cases hseq : s.writeLineSeq with
  | finite cs =>
    rw [writeLineRoutine_of_finite hseq, writeLineTxns, hseq]
    exact ⟨applyTxns_writeLineLoopTxns s s 0 cs ▸ .refl _, writeLineLoopTxns_readsFrom s 0 cs⟩
  | endless c =>
    rw [writeLineRoutine_of_endless hseq, writeLineTxns, hseq]
    exact ⟨.refl _, nofun⟩

theorem writeLineResume_accounts (k : Nat) (s : State) :
    Accounts s (writeLineResume k s) (writeLineResumeTxns k s) := by
  cases hseq : s.writeLineSeq with
  | finite cs =>
    rw [writeLineResume_of_finite hseq, writeLineResumeTxns, hseq]
    exact ⟨.refl _, nofun⟩
  | endless c =>
    rw [writeLineResume_of_endless hseq, writeLineResumeTxns, hseq]
    refine ⟨?_, List.forall_mem_append.2 ⟨writeLineReadTxns_readsFrom s k, by simp⟩⟩
    rw [applyTxns_append, applyTxns_writeLineReadTxns]
    exact .refl _

theorem resume_accounts (s : State) : Accounts s (resume s) (resumeTxns s) := by
  cases hh : s.hold <;> rw [resume, resumeTxns, hh]
  case idle => exact ⟨.refl s, nofun⟩
  case getc => exact getcRoutine_accounts s
  case inEcho => exact inRoutine_accounts s
  case puts a => exact putsResume_accounts a s
  case writeLine k => exact writeLineResume_accounts k s

/-! ## The bodies and the step -/

theorem exec_accounts {i : Instr} {s t : State} (h : exec i s = .next t) : Accounts s t (bodyTxns i s) := by
  cases i
  case br n z p off9 =>
    cases h
    refine ⟨?_, nofun⟩
    split <;> exact .refl _
  case trapGetc => cases h; exact getcRoutine_accounts s
  case trapIn => cases h; exact inRoutine_accounts s
  case trapPuts => cases h; exact putsRoutine_accounts s
  case trapWriteline => cases h; exact writeLineRoutine_accounts s
  all_goals cases h; exact ⟨.refl _, by simp [bodyTxns]⟩

theorem stepTxns_of_ready {s : State} (h : s.ready = true) :
    stepTxns s = s.readTxn s.pc :: bodyTxns (decode (s.readMem s.pc)) s.advance := by
  obtain ⟨hl, hr, hh⟩ := s.ready_iff.1 h
  simp [stepTxns, hl, hr, hh, State.fetchWord]

theorem stepTxns_hold {s : State} (hl : s.resetLine = false) (hr : s.run = .running) (hh : s.hold ≠ .idle) :
    stepTxns s = resumeTxns s := by
  simp [stepTxns, hl, hr, hh]

theorem step_accounts {s t : State} (h : step s = .next t) : Accounts s t (stepTxns s) := by
  rcases step_cases h with ⟨hl | hr, rfl⟩ | ⟨hl, hr, hh, rfl⟩ | ⟨hl, hr, hh, hexec⟩
  · rw [stepTxns_resetLine hl]; exact ⟨.refl _, nofun⟩
  · rw [stepTxns_halted hr]; exact ⟨.refl _, nofun⟩
  · rw [stepTxns_hold hl hr hh]; exact resume_accounts s
  · obtain ⟨hreplay, hreads⟩ := exec_accounts hexec
    have hports : SamePorts s s.advance := .refl s
    rw [stepTxns_of_ready (s.ready_iff.2 ⟨hl, hr, hh⟩)]
    refine ⟨(hports.applyTxns _).trans hreplay, List.forall_mem_cons.2 ⟨s.readTxn_readsFrom s.pc, hreads⟩⟩

/-- Settles O51, from `step_accounts`; the fetch is the first transaction of a ready core. -/
theorem transactionsAccountForTheStep : Obligations.TransactionsAccountForTheStep := by
  intro s t h
  obtain ⟨⟨hmem, hin, hout, hnotices⟩, hreads⟩ := step_accounts h
  refine ⟨hmem, hin, hout, hnotices, fun a v hx => hreads _ hx, fun hready => ?_⟩
  rw [stepTxns_of_ready hready]
  rfl

end Sys2Proof.Machine
end
